-- ==== Sys2Proof/Word.lean ====
section
/-! DEFINITION. The word types of the block (00_scope R5: `u8`, `u16`, `u32`). Arithmetic on them wraps, which is
what `BitVec` addition does. Byte order and bit fields are in Decode.lean. -/

namespace Sys2Proof

/-- `u8` (00_scope R5). -/
abbrev Byte := BitVec 8

/-- `u16` (00_scope R5). -/
abbrev Half := BitVec 16

/-- `u32` (00_scope R5): register numbers, varuint values, CSR values. -/
abbrev Word := BitVec 32

end Sys2Proof
end

