-- ==== Sys2Proof/Syntax.lean ====
section
/-! DEFINITION. The instructions: one constructor of `Instr` for each row of spec/opcode_table.json, and the operand
types they carry. An instruction is a frame on the wire, a subframe inside a frame's payload, a host command or an
agent's event (30_encoding R80, R88, R85, R86). -/

namespace Sys2Proof

/-- The four value types, type index 0..3 (44_subframe_codec R220). -/
inductive VType where
  | i8
  | i16
  | i32
  | f32
deriving DecidableEq, Repr, Inhabited

/-- A Value: a type and as many bits as its width (44_subframe_codec R220). Float32 is an opaque pattern (R223). -/
inductive Value where
  | i8 (bits : BitVec 8)
  | i16 (bits : BitVec 16)
  | i32 (bits : BitVec 32)
  | f32 (bits : BitVec 32)
deriving DecidableEq, Repr, Inhabited

/-- A varuint operand as it stands in a byte string: its value and the number of bytes it takes there. A decoder
accepts encodings longer than minimal (30_encoding R82, 40_varint R124), so the size is not a function of the value. -/
structure VarU where
  value : Word
  size : Nat
deriving DecidableEq, Repr, Inhabited

/-- A frame value (42_frame_codec R160). -/
structure Frame where
  src : BitVec 7
  rr : Bool
  dst : Byte
  payload : List Byte
deriving DecidableEq, Repr, Inhabited

/-- The block's instructions, in the order of spec/opcode_table.json. -/
inductive Instr where
  /-- `FRAME` (R80): a whole frame, the length field as it is encoded and the CRC field as a number. -/
  | frame (src : BitVec 7) (rr : Bool) (dst : Byte) (len : VarU) (payload : List Byte) (crc : Half)
  /-- `WRITE.I8.N`, code 0x00 (R300). -/
  | writeI8N (n r : VarU) (vals : List (BitVec 8))
  /-- `WRITE.I8.1`, code 0x01 (R301). -/
  | writeI8_1 (r : VarU) (v0 : BitVec 8)
  /-- `WRITE.I8.2`, code 0x02 (R302). -/
  | writeI8_2 (r : VarU) (v0 v1 : BitVec 8)
  /-- `WRITE.I8.3`, code 0x03 (R303). -/
  | writeI8_3 (r : VarU) (v0 v1 v2 : BitVec 8)
  /-- `WRITE.I16.N`, code 0x04 (R304). -/
  | writeI16N (n r : VarU) (vals : List (BitVec 16))
  /-- `WRITE.I16.1`, code 0x05 (R305). -/
  | writeI16_1 (r : VarU) (v0 : BitVec 16)
  /-- `WRITE.I16.2`, code 0x06 (R306). -/
  | writeI16_2 (r : VarU) (v0 v1 : BitVec 16)
  /-- `WRITE.I16.3`, code 0x07 (R307). -/
  | writeI16_3 (r : VarU) (v0 v1 v2 : BitVec 16)
  /-- `WRITE.I32.N`, code 0x08 (R308). -/
  | writeI32N (n r : VarU) (vals : List (BitVec 32))
  /-- `WRITE.I32.1`, code 0x09 (R309). -/
  | writeI32_1 (r : VarU) (v0 : BitVec 32)
  /-- `WRITE.I32.2`, code 0x0A (R310). -/
  | writeI32_2 (r : VarU) (v0 v1 : BitVec 32)
  /-- `WRITE.I32.3`, code 0x0B (R311). -/
  | writeI32_3 (r : VarU) (v0 v1 v2 : BitVec 32)
  /-- `WRITE.F32.N`, code 0x0C (R312). -/
  | writeF32N (n r : VarU) (vals : List (BitVec 32))
  /-- `WRITE.F32.1`, code 0x0D (R313). -/
  | writeF32_1 (r : VarU) (v0 : BitVec 32)
  /-- `WRITE.F32.2`, code 0x0E (R314). -/
  | writeF32_2 (r : VarU) (v0 v1 : BitVec 32)
  /-- `WRITE.F32.3`, code 0x0F (R315). -/
  | writeF32_3 (r : VarU) (v0 v1 v2 : BitVec 32)
  /-- `READ.I8.N`, code 0x10 (R316). -/
  | readI8N (n r : VarU)
  /-- `READ.I8.1`, code 0x11 (R317). -/
  | readI8_1 (r : VarU)
  /-- `READ.I8.2`, code 0x12 (R318). -/
  | readI8_2 (r : VarU)
  /-- `READ.I8.3`, code 0x13 (R319). -/
  | readI8_3 (r : VarU)
  /-- `READ.I16.N`, code 0x14 (R320). -/
  | readI16N (n r : VarU)
  /-- `READ.I16.1`, code 0x15 (R321). -/
  | readI16_1 (r : VarU)
  /-- `READ.I16.2`, code 0x16 (R322). -/
  | readI16_2 (r : VarU)
  /-- `READ.I16.3`, code 0x17 (R323). -/
  | readI16_3 (r : VarU)
  /-- `READ.I32.N`, code 0x18 (R324). -/
  | readI32N (n r : VarU)
  /-- `READ.I32.1`, code 0x19 (R325). -/
  | readI32_1 (r : VarU)
  /-- `READ.I32.2`, code 0x1A (R326). -/
  | readI32_2 (r : VarU)
  /-- `READ.I32.3`, code 0x1B (R327). -/
  | readI32_3 (r : VarU)
  /-- `READ.F32.N`, code 0x1C (R328). -/
  | readF32N (n r : VarU)
  /-- `READ.F32.1`, code 0x1D (R329). -/
  | readF32_1 (r : VarU)
  /-- `READ.F32.2`, code 0x1E (R330). -/
  | readF32_2 (r : VarU)
  /-- `READ.F32.3`, code 0x1F (R331). -/
  | readF32_3 (r : VarU)
  /-- `REPLY.I8.N`, code 0x20 (R225). -/
  | replyI8N (n r : VarU) (vals : List (BitVec 8))
  /-- `REPLY.I8.1`, code 0x21 (R226). -/
  | replyI8_1 (r : VarU) (v0 : BitVec 8)
  /-- `REPLY.I8.2`, code 0x22 (R227). -/
  | replyI8_2 (r : VarU) (v0 v1 : BitVec 8)
  /-- `REPLY.I8.3`, code 0x23 (R228). -/
  | replyI8_3 (r : VarU) (v0 v1 v2 : BitVec 8)
  /-- `REPLY.I16.N`, code 0x24 (R229). -/
  | replyI16N (n r : VarU) (vals : List (BitVec 16))
  /-- `REPLY.I16.1`, code 0x25 (R230). -/
  | replyI16_1 (r : VarU) (v0 : BitVec 16)
  /-- `REPLY.I16.2`, code 0x26 (R231). -/
  | replyI16_2 (r : VarU) (v0 v1 : BitVec 16)
  /-- `REPLY.I16.3`, code 0x27 (R232). -/
  | replyI16_3 (r : VarU) (v0 v1 v2 : BitVec 16)
  /-- `REPLY.I32.N`, code 0x28 (R233). -/
  | replyI32N (n r : VarU) (vals : List (BitVec 32))
  /-- `REPLY.I32.1`, code 0x29 (R234). -/
  | replyI32_1 (r : VarU) (v0 : BitVec 32)
  /-- `REPLY.I32.2`, code 0x2A (R235). -/
  | replyI32_2 (r : VarU) (v0 v1 : BitVec 32)
  /-- `REPLY.I32.3`, code 0x2B (R236). -/
  | replyI32_3 (r : VarU) (v0 v1 v2 : BitVec 32)
  /-- `REPLY.F32.N`, code 0x2C (R237). -/
  | replyF32N (n r : VarU) (vals : List (BitVec 32))
  /-- `REPLY.F32.1`, code 0x2D (R238). -/
  | replyF32_1 (r : VarU) (v0 : BitVec 32)
  /-- `REPLY.F32.2`, code 0x2E (R239). -/
  | replyF32_2 (r : VarU) (v0 v1 : BitVec 32)
  /-- `REPLY.F32.3`, code 0x2F (R240). -/
  | replyF32_3 (r : VarU) (v0 v1 v2 : BitVec 32)
  /-- `WRITE_ERROR`, code 0x30 (R241): register and error code. -/
  | writeError (r e : VarU)
  /-- `READ_ERROR`, code 0x31 (R242). -/
  | readError (r e : VarU)
  /-- `TUNNEL_C2S`, code 0x40 (R333): channel, byte count, data. -/
  | tunnelC2s (ch len : VarU) (data : List Byte)
  /-- `TUNNEL_S2C`, code 0x41 (R97, R243, R335). -/
  | tunnelS2c (ch len : VarU) (data : List Byte)
  /-- `TUNNEL_POLL`, code 0x42 (R334): channel, largest number of data bytes of the reply. -/
  | tunnelPoll (ch m : VarU)
  /-- `NOP`, code 0x50 (R336). -/
  | nop
  /-- `CRC_INIT`, opcode 0x01 (R145). -/
  | crcInit
  /-- `CRC_BYTE`, opcode 0x02 (R146). -/
  | crcByte (d : Byte)
  /-- `CRC_READ`, opcode 0x03 (R147). -/
  | crcRead
  /-- `CRC_CHECK`, opcode 0x04 (R148). -/
  | crcCheck (d : Half)
  /-- `VENC`, opcode 0x08 (R125). -/
  | venc (v : Word)
  /-- `VDEC_CLR`, opcode 0x09 (R127). -/
  | vdecClr
  /-- `VDEC_BYTE`, opcode 0x0A (R128). -/
  | vdecByte (d : Byte)
  /-- `TX_FRAMES`, opcode 0x10 (R166). -/
  | txFrames (frames : List Frame)
  /-- `RX_ARM`, opcode 0x11 (R190). DESIGN CHOICE (log 8): `cap` has 32 bits; R85 states its range only. -/
  | rxArm (cap : Word)
  /-- `RX_CANCEL`, opcode 0x12 (R195). -/
  | rxCancel
  /-- `SRV_START`, opcode 0x20 (R283). -/
  | srvStart
  /-- `CSR_READ`, opcode 0x21 (R36). -/
  | csrRead (i : Byte)
  /-- `CSR_WRITE`, opcode 0x22 (R36). -/
  | csrWrite (i : Byte) (v : Word)
  /-- `RQ_CLEAR`, opcode 0x30 (R246). -/
  | rqClear
  /-- `RQ_SET_RR`, opcode 0x31 (R247). -/
  | rqSetRr (b : Bool)
  /-- `RQ_WRITE`, opcode 0x32 (R248). A value is its pattern's bytes, least significant first; a pattern of the wrong
  width can be offered and is `F_BAD_CMD` (30_encoding R87). -/
  | rqWrite (reg : Word) (t : VType) (values : List (List Byte))
  /-- `RQ_READ`, opcode 0x33 (R249). -/
  | rqRead (reg : Word) (t : VType) (n : Word)
  /-- `RQ_GET`, opcode 0x34 (R251). -/
  | rqGet
  /-- `RP_PARSE`, opcode 0x38 (R260). -/
  | rpParse (payload : List Byte)
  /-- `RX_BYTE`, event 0x80 (R191). -/
  | rxByte (d : Byte)
  /-- `RX_TERR`, event 0x81 (R197). -/
  | rxTerr (e : Word)
  /-- `TX_TAKE`, event 0x82 (R167). -/
  | txTake
  /-- `TX_TERR`, event 0x83 (R168). -/
  | txTerr (e : Word)
  /-- `RX_TIMEOUT`, event 0x84 (R196). -/
  | rxTimeout
  /-- `T_READ`, event 0x88 (R337). -/
  | tRead (ch : BitVec 7) (n : Word)
  /-- `T_WRITE`, event 0x89 (R338). -/
  | tWrite (ch : BitVec 7) (data : List Byte)
  /-- `SRV_DISPATCH`, event 0x90, the dispatch unit's internal step (R287). -/
  | srvDispatch
deriving DecidableEq, Repr

end Sys2Proof
end

