-- ==== Sys2Proof/Config.lean ====
section
/-! DEFINITION. The parameters of the block (00_scope R1). A model takes each as an argument: here they are one
structure, which State carries and no step changes (log 1). `Config.reference` is the setting that `State.reset`
stands at (log 2). The register store, an oracle parameter (45_dispatch R281), is free (log 4). -/

namespace Sys2Proof

/-- Which bytes the frame CRC covers (41_crc R149, parameter `CRC_SPAN`). -/
inductive CrcSpan where
  | preceding
  | withZeroField
deriving DecidableEq, Repr

/-- What happens to bits above bit 31 of a terminating fifth varuint byte (40_varint R123, `VARUINT_5TH_OVERFLOW`). -/
inductive FifthOverflow where
  | truncate
  | clamp
deriving DecidableEq, Repr

/-- One `Store.Write` call: the register and the value (45_dispatch R281). -/
structure StoreWrite where
  reg : Word
  value : Value
deriving DecidableEq, Repr, Inhabited

/-- The answer of `Store.Read`: `VAL` with the pattern's bits, of which the block takes as many as the type is wide
(45_dispatch R282), or `ERR` with a code. -/
inductive ReadAnswer where
  | val (bits : Word)
  | err (e : Word)
deriving DecidableEq, Repr, Inhabited

/-- One call of the store, with its arguments (10_state R41, 45_dispatch R281). -/
inductive StoreCall where
  | write (w : StoreWrite)
  | read (reg : Word) (t : VType)
deriving DecidableEq, Repr

/-- FREE VALUE (log 4): the error code the application's store answers to a write, given the writes made before. -/
opaque Config.storeWriteAnswer : List StoreWrite → StoreWrite → Word

/-- FREE VALUE (log 4): what the application's store answers to a read of a register at a type, given the writes made
before. The answer is a function of the write history, because `Store.Read` has no side effect (45_dispatch R282). -/
opaque Config.storeReadAnswer : List StoreWrite → Word → VType → ReadAnswer

/-- FREE VALUE (log 22): how many more registers a read subframe has read when its reply does not fit, given the calls
made before, the first register not yet answered for, the type, the registers left and the free bytes of the reply; at
most the registers left are read. 93_implementation_defined U15 leaves the number open. -/
opaque Config.surplusReads : List StoreCall → Word → VType → Nat → Nat → Nat

/-- The store parameter. `external` is the application's store, of which nothing is known. `sample` is the example
store of 45_dispatch R297 with the answers of some registers replaced; the spec's vectors are stated at it (log 5). -/
inductive Store where
  | external
  | sample (special : List (Word × ReadAnswer))
deriving DecidableEq, Repr

/-- The parameters of 00_scope R1. `RX_BUF_SIZE`, `REPLY_CAP` and `RQ_CAP` are derived from `maxPayload`. -/
structure Config where
  /-- `MAX_PAYLOAD` -/
  maxPayload : Nat
  /-- `TX_BUF_SIZE` -/
  txBufSize : Nat
  /-- `TUNNEL_IDS` -/
  tunnelIds : List (BitVec 7)
  /-- `TUNNEL_RX_CAP` -/
  tunnelRxCap : Nat
  /-- `TUNNEL_TX_CAP` -/
  tunnelTxCap : Nat
  /-- `NODE_ID_RESET` -/
  nodeIdReset : Byte
  /-- `CRC_POLY` -/
  crcPoly : Half
  /-- `CRC_INIT` -/
  crcInit : Half
  /-- `CRC_REFIN` -/
  crcRefin : Bool
  /-- `CRC_REFOUT` -/
  crcRefout : Bool
  /-- `CRC_XOROUT` -/
  crcXorout : Half
  /-- `CRC_SPAN` -/
  crcSpan : CrcSpan
  /-- `VARUINT_5TH_OVERFLOW` -/
  fifthOverflow : FifthOverflow
  /-- `PARTIAL_WRITE_ON_TRUNCATION` -/
  partialWrite : Bool
  /-- `STATS_WIDTH` -/
  statsWidth : Nat
  /-- the register store oracle (45_dispatch R281) -/
  store : Store
deriving DecidableEq, Repr

namespace Config

/-- `RX_BUF_SIZE = MAX_PAYLOAD + 11`. -/
def rxBufSize (c : Config) : Nat := c.maxPayload + 11

/-- `REPLY_CAP = MAX_PAYLOAD`. -/
def replyCap (c : Config) : Nat := c.maxPayload

/-- `RQ_CAP = MAX_PAYLOAD`. -/
def rqCap (c : Config) : Nat := c.maxPayload

/-- The constraints of 00_scope R1 on the parameters. Two bounds are read from the widths elsewhere (log 3): a payload
length is a `u32`, and a counter is read `zext_32`. -/
abbrev wf (c : Config) : Prop :=
  16 ≤ c.maxPayload ∧ c.maxPayload + 11 ≤ c.txBufSize ∧ 1 ≤ c.tunnelRxCap ∧ 1 ≤ c.tunnelTxCap ∧
    1 ≤ c.statsWidth ∧ c.tunnelIds.Nodup ∧ c.maxPayload < 2 ^ 32 ∧ c.statsWidth ≤ 32

/-- The setting `State.reset` stands at: the example values of 93_implementation_defined part 3 for the OPEN sizes and
channels, the defaults of 00_scope R1 for the rest, and `NODE_ID_RESET = 0x42` (log 2). -/
def reference : Config :=
  { maxPayload := 64
    txBufSize := 75
    tunnelIds := [9#7]
    tunnelRxCap := 16
    tunnelTxCap := 16
    nodeIdReset := 0x42#8
    crcPoly := 0x1021#16
    crcInit := 0xFFFF#16
    crcRefin := false
    crcRefout := false
    crcXorout := 0x0000#16
    crcSpan := .preceding
    fifthOverflow := .truncate
    partialWrite := false
    statsWidth := 32
    store := .external }

end Config

end Sys2Proof
end

