-- ==== Sys2Proof/WellFormed.lean ====
section
/-! DEFINITION. Which instructions the encodings admit: the varuint sizes, the counts that name the number of values,
and the ranges of 30_encoding R85 to R98. What a host may offer but the block refuses with a FAULT bit (a capacity, a
payload or a pattern out of range) is well-formed here: the refusal is the instruction's own meaning. -/

namespace Sys2Proof

/-- A varuint operand fits its size: 1 to 5 bytes of 7 bits each (40_varint R120, R122). -/
abbrev VarU.wf (v : VarU) : Prop := 1 ≤ v.size ∧ v.size ≤ 5 ∧ v.value.toNat < 2 ^ (7 * v.size)

/-- A count varuint that says how many items follow (30_encoding R89, R96). -/
abbrev VarU.counts (v : VarU) (n : Nat) : Prop := v.wf ∧ v.value.toNat = n

/-- A list whose length the argument layout of commands carries in 32 bits (log 8). -/
abbrev fits32 {α : Type} (l : List α) : Prop := l.length < 2 ^ 32

/-- What the encoding of each instruction requires of its operands. -/
abbrev Instr.wf (c : Config) (i : Instr) : Prop :=
  match i with
  | .frame _ _ _ len payload _ => len.counts payload.length ∧ payload.length ≤ c.maxPayload
  | .writeI8N n r vals => n.counts vals.length ∧ r.wf
  | .writeI8_1 r _ => r.wf
  | .writeI8_2 r _ _ => r.wf
  | .writeI8_3 r _ _ _ => r.wf
  | .writeI16N n r vals => n.counts vals.length ∧ r.wf
  | .writeI16_1 r _ => r.wf
  | .writeI16_2 r _ _ => r.wf
  | .writeI16_3 r _ _ _ => r.wf
  | .writeI32N n r vals => n.counts vals.length ∧ r.wf
  | .writeI32_1 r _ => r.wf
  | .writeI32_2 r _ _ => r.wf
  | .writeI32_3 r _ _ _ => r.wf
  | .writeF32N n r vals => n.counts vals.length ∧ r.wf
  | .writeF32_1 r _ => r.wf
  | .writeF32_2 r _ _ => r.wf
  | .writeF32_3 r _ _ _ => r.wf
  | .readI8N n r => n.wf ∧ r.wf
  | .readI8_1 r => r.wf
  | .readI8_2 r => r.wf
  | .readI8_3 r => r.wf
  | .readI16N n r => n.wf ∧ r.wf
  | .readI16_1 r => r.wf
  | .readI16_2 r => r.wf
  | .readI16_3 r => r.wf
  | .readI32N n r => n.wf ∧ r.wf
  | .readI32_1 r => r.wf
  | .readI32_2 r => r.wf
  | .readI32_3 r => r.wf
  | .readF32N n r => n.wf ∧ r.wf
  | .readF32_1 r => r.wf
  | .readF32_2 r => r.wf
  | .readF32_3 r => r.wf
  | .replyI8N n r vals => n.counts vals.length ∧ r.wf
  | .replyI8_1 r _ => r.wf
  | .replyI8_2 r _ _ => r.wf
  | .replyI8_3 r _ _ _ => r.wf
  | .replyI16N n r vals => n.counts vals.length ∧ r.wf
  | .replyI16_1 r _ => r.wf
  | .replyI16_2 r _ _ => r.wf
  | .replyI16_3 r _ _ _ => r.wf
  | .replyI32N n r vals => n.counts vals.length ∧ r.wf
  | .replyI32_1 r _ => r.wf
  | .replyI32_2 r _ _ => r.wf
  | .replyI32_3 r _ _ _ => r.wf
  | .replyF32N n r vals => n.counts vals.length ∧ r.wf
  | .replyF32_1 r _ => r.wf
  | .replyF32_2 r _ _ => r.wf
  | .replyF32_3 r _ _ _ => r.wf
  | .writeError r e => r.wf ∧ e.wf
  | .readError r e => r.wf ∧ e.wf
  | .tunnelC2s ch len data => ch.wf ∧ len.counts data.length
  | .tunnelS2c ch len data => ch.wf ∧ len.counts data.length
  | .tunnelPoll ch m => ch.wf ∧ m.wf
  | .nop => True
  | .crcInit => True
  | .crcByte _ => True
  | .crcRead => True
  | .crcCheck _ => True
  | .venc _ => True
  | .vdecClr => True
  | .vdecByte _ => True
  | .txFrames frames => fits32 frames ∧ ∀ f ∈ frames, fits32 f.payload
  | .rxArm _ => True
  | .rxCancel => True
  | .srvStart => True
  | .csrRead _ => True
  | .csrWrite _ _ => True
  | .rqClear => True
  | .rqSetRr _ => True
  | .rqWrite _ _ values => fits32 values ∧ ∀ v ∈ values, v.length < 256
  | .rqRead _ _ _ => True
  | .rqGet => True
  | .rpParse payload => fits32 payload
  | .rxByte _ => True
  | .rxTerr _ => True
  | .txTake => True
  | .txTerr _ => True
  | .rxTimeout => True
  | .tRead _ n => 1 ≤ n.toNat
  | .tWrite _ data => 1 ≤ data.length ∧ fits32 data
  | .srvDispatch => True

end Sys2Proof
end

