-- ==== Sys2Proof/Decode.lean ====
section
/-! DEFINITION. The decoders and the encoder: byte order, varuints, frames, subframes, host commands and events.
Every decoder is total on any bytes and rejects by name. Decoding looks only at bytes; what an instruction does is in
Machine/. The argument layout of commands and events is the model's (log 8). -/

namespace Sys2Proof

/-- Why bytes are no instruction. -/
inductive DecodeError where
  /-- too few bytes for the next field: `SHORT`, or a frame that is not complete yet -/
  | short
  /-- a subframe code that 30_encoding R100 leaves unassigned: `UNKNOWN` -/
  | unknownCode
  /-- not the frame header 54 AB (43_frame_sync R183) -/
  | badHeader
  /-- a frame length above `MAX_PAYLOAD` (43_frame_sync R186) -/
  | oversize
  /-- a command or event code that is not in 30_encoding R85, R86 -/
  | badOpcode
  /-- an argument byte outside its field (30_encoding R87) -/
  | badArgument
  /-- bytes after the end of a command or event (log 9) -/
  | trailing
deriving DecidableEq, Repr

/-- An instruction and the bytes after it, or the reason there is none. -/
abbrev Decoded := Except DecodeError (Instr × List Byte)

/-! ### Byte order (20_memory R62, 00_scope R5) -/

/-- `le16(v)`. -/
def le16 (v : Half) : List Byte := [v.extractLsb' 0 8, v.extractLsb' 8 8]

/-- `le32(v)`. -/
def le32 (v : Word) : List Byte :=
  [v.extractLsb' 0 8, v.extractLsb' 8 8, v.extractLsb' 16 8, v.extractLsb' 24 8]

/-- The first byte of a byte string (0 past its end; every use has checked the length). -/
def rd8 (s : List Byte) : Byte := s.headD 0#8

/-- `rdle(s, 0, 2)`. -/
def rd16 (s : List Byte) : Half := rd8 (s.drop 1) ++ rd8 s

/-- `rdle(s, 0, 4)`. -/
def rd32 (s : List Byte) : Word := rd16 (s.drop 2) ++ rd16 s

/-- `width(t)` in bytes (44_subframe_codec R220). -/
def VType.width : VType → Nat
  | .i8 => 1
  | .i16 => 2
  | .i32 => 4
  | .f32 => 4

/-- The type index `t` (30_encoding R84). -/
def VType.index : VType → Nat
  | .i8 => 0
  | .i16 => 1
  | .i32 => 2
  | .f32 => 3

/-- The type of a type index, `code[3:2]` (30_encoding R84). -/
def VType.ofIndex (n : Nat) : VType :=
  match n % 4 with
  | 0 => .i8
  | 1 => .i16
  | 2 => .i32
  | _ => .f32

/-- A Value's bytes on the wire (44_subframe_codec R221). -/
def Value.bytes : Value → List Byte
  | .i8 b => [b]
  | .i16 b => le16 b
  | .i32 b => le32 b
  | .f32 b => le32 b

/-- The Value of type `t` at the front of a byte string (30_encoding R91). -/
def Value.read (t : VType) (s : List Byte) : Value :=
  match t with
  | .i8 => .i8 (rd8 s)
  | .i16 => .i16 (rd16 s)
  | .i32 => .i32 (rd32 s)
  | .f32 => .f32 (rd32 s)

/-! ### Varuints (40_varint) -/

/-- The 7 data bits of a varuint byte. -/
def low7 (v : Word) : Byte := v.setWidth 8 &&& 0x7F#8

/-- A varuint of exactly `n` bytes: continuation bit set on all but the last (30_encoding R83). -/
def encVarBytes : Nat → Word → List Byte
  | 0, _ => []
  | 1, v => [low7 v]
  | n + 2, v => (low7 v ||| 0x80#8) :: encVarBytes (n + 1) (v >>> 7)

/-- The bytes of a varuint operand. -/
def VarU.bytes (v : VarU) : List Byte := encVarBytes v.size v.value

/-- The loop of `venc`, with the number of bytes left to emit. -/
def vencLoop : Nat → Word → List Byte
  | 0, _ => []
  | n + 1, v => if v >>> 7 ≠ 0#32 then (low7 v ||| 0x80#8) :: vencLoop n (v >>> 7) else [low7 v]

/-- `venc(v)`: the minimal encoding (40_varint R121). -/
def venc (v : Word) : List Byte := vencLoop 5 v

/-- `venc` of a length or count. -/
def vencNat (n : Nat) : List Byte := venc (BitVec.ofNat 32 n)

/-- A varuint operand at its minimal size. -/
def VarU.minimal (v : Word) : VarU := ⟨v, (venc v).length⟩

/-- The loop of `vdec` at byte `j` with accumulator `acc` (40_varint R123). -/
def vdecLoop (c : Config) : Nat → Word → List Byte → Option VarU
  | _, _, [] => none
  | j, acc, b :: s =>
    let acc' := acc ||| ((b &&& 0x7F#8).setWidth 32 <<< (7 * j))
    if b.msb = false then
      if j = 4 ∧ b.extractLsb' 4 3 ≠ 0#3 ∧ c.fifthOverflow = .clamp then some ⟨0xFFFFFFFF#32, 5⟩
      else some ⟨acc', j + 1⟩
    else if j = 4 then some ⟨0xFFFFFFFF#32, 5⟩
    else vdecLoop c (j + 1) acc' s

/-- `vdec(s, 0)`: value and count, `none` for "need more data" (40_varint R123). -/
def vdec (c : Config) (s : List Byte) : Option VarU := vdecLoop c 0 0#32 s

/-- One varuint field: the operand and the bytes after it (the `field()` of 44_subframe_codec R224). -/
def takeVar (c : Config) (s : List Byte) : Option (VarU × List Byte) :=
  match vdec c s with
  | none => none
  | some v => some (v, s.drop v.size)

/-! ### Subframes (44_subframe_codec R224, 30_encoding R88 to R101) -/

/-- `n` values of `w` bytes each. -/
def takeVals {α : Type} (w : Nat) (rd : List Byte → α) : Nat → List Byte → List α
  | 0, _ => []
  | n + 1, s => rd s :: takeVals w rd n (s.drop w)

/-- One varuint field and nothing else. -/
def oneVar (mk : VarU → Instr) (c : Config) (s : List Byte) : Decoded :=
  match takeVar c s with
  | none => .error .short
  | some (r, s) => .ok (mk r, s)

/-- Two varuint fields. -/
def twoVars (mk : VarU → VarU → Instr) (c : Config) (s : List Byte) : Decoded :=
  match takeVar c s with
  | none => .error .short
  | some (a, s) => oneVar (mk a) c s

/-- An explicit count, a register, and that many values (R92 with `k = 0`). The product is a natural number. -/
def runN {α : Type} (mk : VarU → VarU → List α → Instr) (w : Nat) (rd : List Byte → α) (c : Config)
    (s : List Byte) : Decoded :=
  match takeVar c s with
  | none => .error .short
  | some (n, s) =>
    match takeVar c s with
    | none => .error .short
    | some (r, s) =>
      if s.length < n.value.toNat * w then .error .short
      else .ok (mk n r (takeVals w rd n.value.toNat s), s.drop (n.value.toNat * w))

/-- A register and one value (R92 with `k = 1`). -/
def run1 {α : Type} (mk : VarU → α → Instr) (w : Nat) (rd : List Byte → α) (c : Config) (s : List Byte) : Decoded :=
  match takeVar c s with
  | none => .error .short
  | some (r, s) => if s.length < w then .error .short else .ok (mk r (rd s), s.drop w)

/-- A register and two values (R92 with `k = 2`). -/
def run2 {α : Type} (mk : VarU → α → α → Instr) (w : Nat) (rd : List Byte → α) (c : Config) (s : List Byte) :
    Decoded :=
  match takeVar c s with
  | none => .error .short
  | some (r, s) =>
    if s.length < 2 * w then .error .short else .ok (mk r (rd s) (rd (s.drop w)), s.drop (2 * w))

/-- A register and three values (R92 with `k = 3`). -/
def run3 {α : Type} (mk : VarU → α → α → α → Instr) (w : Nat) (rd : List Byte → α) (c : Config) (s : List Byte) :
    Decoded :=
  match takeVar c s with
  | none => .error .short
  | some (r, s) =>
    if s.length < 3 * w then .error .short
    else .ok (mk r (rd s) (rd (s.drop w)) (rd (s.drop (2 * w))), s.drop (3 * w))

/-- A channel, a byte count and that many bytes (R96, R97). -/
def dataForm (mk : VarU → VarU → List Byte → Instr) (c : Config) (s : List Byte) : Decoded :=
  match takeVar c s with
  | none => .error .short
  | some (ch, s) =>
    match takeVar c s with
    | none => .error .short
    | some (len, s) =>
      if s.length < len.value.toNat then .error .short
      else .ok (mk ch len (s.take len.value.toNat), s.drop len.value.toNat)

/-- `parse_sub(P, 0)`: the subframe at the front of a payload (44_subframe_codec R224; codes of 30_encoding R88). -/
def decodeSub (c : Config) : List Byte → Decoded
  | [] => .error .short
  | code :: s =>
    match code.toNat with
    | 0x00 => runN .writeI8N 1 rd8 c s
    | 0x01 => run1 .writeI8_1 1 rd8 c s
    | 0x02 => run2 .writeI8_2 1 rd8 c s
    | 0x03 => run3 .writeI8_3 1 rd8 c s
    | 0x04 => runN .writeI16N 2 rd16 c s
    | 0x05 => run1 .writeI16_1 2 rd16 c s
    | 0x06 => run2 .writeI16_2 2 rd16 c s
    | 0x07 => run3 .writeI16_3 2 rd16 c s
    | 0x08 => runN .writeI32N 4 rd32 c s
    | 0x09 => run1 .writeI32_1 4 rd32 c s
    | 0x0A => run2 .writeI32_2 4 rd32 c s
    | 0x0B => run3 .writeI32_3 4 rd32 c s
    | 0x0C => runN .writeF32N 4 rd32 c s
    | 0x0D => run1 .writeF32_1 4 rd32 c s
    | 0x0E => run2 .writeF32_2 4 rd32 c s
    | 0x0F => run3 .writeF32_3 4 rd32 c s
    | 0x10 => twoVars .readI8N c s
    | 0x11 => oneVar .readI8_1 c s
    | 0x12 => oneVar .readI8_2 c s
    | 0x13 => oneVar .readI8_3 c s
    | 0x14 => twoVars .readI16N c s
    | 0x15 => oneVar .readI16_1 c s
    | 0x16 => oneVar .readI16_2 c s
    | 0x17 => oneVar .readI16_3 c s
    | 0x18 => twoVars .readI32N c s
    | 0x19 => oneVar .readI32_1 c s
    | 0x1A => oneVar .readI32_2 c s
    | 0x1B => oneVar .readI32_3 c s
    | 0x1C => twoVars .readF32N c s
    | 0x1D => oneVar .readF32_1 c s
    | 0x1E => oneVar .readF32_2 c s
    | 0x1F => oneVar .readF32_3 c s
    | 0x20 => runN .replyI8N 1 rd8 c s
    | 0x21 => run1 .replyI8_1 1 rd8 c s
    | 0x22 => run2 .replyI8_2 1 rd8 c s
    | 0x23 => run3 .replyI8_3 1 rd8 c s
    | 0x24 => runN .replyI16N 2 rd16 c s
    | 0x25 => run1 .replyI16_1 2 rd16 c s
    | 0x26 => run2 .replyI16_2 2 rd16 c s
    | 0x27 => run3 .replyI16_3 2 rd16 c s
    | 0x28 => runN .replyI32N 4 rd32 c s
    | 0x29 => run1 .replyI32_1 4 rd32 c s
    | 0x2A => run2 .replyI32_2 4 rd32 c s
    | 0x2B => run3 .replyI32_3 4 rd32 c s
    | 0x2C => runN .replyF32N 4 rd32 c s
    | 0x2D => run1 .replyF32_1 4 rd32 c s
    | 0x2E => run2 .replyF32_2 4 rd32 c s
    | 0x2F => run3 .replyF32_3 4 rd32 c s
    | 0x30 => twoVars .writeError c s
    | 0x31 => twoVars .readError c s
    | 0x40 => dataForm .tunnelC2s c s
    | 0x41 => dataForm .tunnelS2c c s
    | 0x42 => twoVars .tunnelPoll c s
    | 0x50 => .ok (.nop, s)
    | _ => .error .unknownCode

/-! ### Frames (30_encoding R80, R81; the tests of 43_frame_sync R181 in order) -/

/-- `src_byte` (30_encoding R81). -/
def srcByte (src : BitVec 7) (rr : Bool) : Byte := src.setWidth 8 ||| (if rr then 0x80#8 else 0x00#8)

/-- The frame at the front of a byte string: `short` while bytes are missing, `badHeader` and `oversize` as the
synchronizer treats them. The CRC is not tested here (43_frame_sync R188 does). -/
def decodeFrame (c : Config) (s : List Byte) : Decoded :=
  match s with
  | [] => .error .short
  | a :: s =>
    if a ≠ 0x54#8 then .error .badHeader
    else match s with
    | [] => .error .short
    | b :: s =>
      if b ≠ 0xAB#8 then .error .badHeader
      else match s with
      | src :: dst :: s =>
        match takeVar c s with
        | none => .error .short
        | some (len, s) =>
          if c.maxPayload < len.value.toNat then .error .oversize
          else if s.length < len.value.toNat + 2 then .error .short
          else .ok (.frame (src.setWidth 7) src.msb dst len (s.take len.value.toNat) (rd16 (s.drop len.value.toNat)),
            s.drop (len.value.toNat + 2))
      | _ => .error .short

/-! ### Host commands and events (30_encoding R85, R86, argument layout log 8) -/

/-- No argument. -/
def arg0 (i : Instr) (s : List Byte) : Decoded := .ok (i, s)

/-- An 8-bit argument. -/
def arg8 (mk : Byte → Instr) (s : List Byte) : Decoded :=
  match s with
  | [] => .error .short
  | b :: s => .ok (mk b, s)

/-- A 16-bit argument, least significant byte first. -/
def arg16 (mk : Half → Instr) (s : List Byte) : Decoded :=
  if s.length < 2 then .error .short else .ok (mk (rd16 s), s.drop 2)

/-- A 32-bit argument, least significant byte first. -/
def arg32 (mk : Word → Instr) (s : List Byte) : Decoded :=
  if s.length < 4 then .error .short else .ok (mk (rd32 s), s.drop 4)

/-- A 32-bit byte count and that many bytes. -/
def takeBytes (s : List Byte) : Option (List Byte × List Byte) :=
  if s.length < 4 then none
  else
    let n := (rd32 s).toNat
    let s := s.drop 4
    if s.length < n then none else some (s.take n, s.drop n)

/-- A byte-string argument. -/
def argBytes (mk : List Byte → Instr) (s : List Byte) : Decoded :=
  match takeBytes s with
  | none => .error .short
  | some (d, s) => .ok (mk d, s)

/-- `n` frames: source byte, destination, payload as a byte string. -/
def takeFrames : Nat → List Byte → Option (List Frame × List Byte)
  | 0, s => some ([], s)
  | n + 1, s =>
    match s with
    | src :: dst :: s =>
      match takeBytes s with
      | none => none
      | some (d, s) =>
        match takeFrames n s with
        | none => none
        | some (fs, s) => some (⟨src.setWidth 7, src.msb, dst, d⟩ :: fs, s)
    | _ => none

/-- `n` patterns: an 8-bit byte count and that many bytes. -/
def takePatterns : Nat → List Byte → Option (List (List Byte) × List Byte)
  | 0, s => some ([], s)
  | n + 1, s =>
    match s with
    | [] => none
    | len :: s =>
      if s.length < len.toNat then none
      else match takePatterns n (s.drop len.toNat) with
        | none => none
        | some (ps, r) => some (s.take len.toNat :: ps, r)

/-- A 1-bit argument in a byte. -/
def argBit (mk : Bool → Instr) (s : List Byte) : Decoded :=
  match s with
  | [] => .error .short
  | b :: s => if 1 < b.toNat then .error .badArgument else .ok (mk (b = 1#8), s)

/-- The frames of `TX_FRAMES`: a 32-bit count and the frames. -/
def argFrames (s : List Byte) : Decoded :=
  if s.length < 4 then .error .short
  else match takeFrames (rd32 s).toNat (s.drop 4) with
    | none => .error .short
    | some (fs, s) => .ok (.txFrames fs, s)

/-- The arguments of `RQ_WRITE`: register, type index, a 32-bit count and the patterns. -/
def argRqWrite (s : List Byte) : Decoded :=
  if s.length < 9 then .error .short
  else if 3 < (rd8 (s.drop 4)).toNat then .error .badArgument
  else match takePatterns (rd32 (s.drop 5)).toNat (s.drop 9) with
    | none => .error .short
    | some (ps, r) => .ok (.rqWrite (rd32 s) (.ofIndex (rd8 (s.drop 4)).toNat) ps, r)

/-- The arguments of `RQ_READ`: register, type index, count. -/
def argRqRead (s : List Byte) : Decoded :=
  if s.length < 9 then .error .short
  else if 3 < (rd8 (s.drop 4)).toNat then .error .badArgument
  else .ok (.rqRead (rd32 s) (.ofIndex (rd8 (s.drop 4)).toNat) (rd32 (s.drop 5)), s.drop 9)

/-- A 7-bit channel in a byte, then the rest of the arguments. -/
def argChannel (k : BitVec 7 → List Byte → Decoded) (s : List Byte) : Decoded :=
  match s with
  | [] => .error .short
  | b :: s => if b.msb then .error .badArgument else k (b.setWidth 7) s

/-- A host command (30_encoding R85). DESIGN CHOICE (log 8): the byte layout of the arguments, and the width of `cap`,
of which the rule states only the range 0 to `MAX_PAYLOAD`: 32 bits. -/
def decodeCommand : List Byte → Decoded
  | [] => .error .short
  | op :: s =>
    match op.toNat with
    | 0x01 => arg0 .crcInit s
    | 0x02 => arg8 .crcByte s
    | 0x03 => arg0 .crcRead s
    | 0x04 => arg16 .crcCheck s
    | 0x08 => arg32 .venc s
    | 0x09 => arg0 .vdecClr s
    | 0x0A => arg8 .vdecByte s
    | 0x10 => argFrames s
    | 0x11 => arg32 .rxArm s
    | 0x12 => arg0 .rxCancel s
    | 0x20 => arg0 .srvStart s
    | 0x21 => arg8 .csrRead s
    | 0x22 => if s.length < 5 then .error .short else .ok (.csrWrite (rd8 s) (rd32 (s.drop 1)), s.drop 5)
    | 0x30 => arg0 .rqClear s
    | 0x31 => argBit .rqSetRr s
    | 0x32 => argRqWrite s
    | 0x33 => argRqRead s
    | 0x34 => arg0 .rqGet s
    | 0x38 => argBytes .rpParse s
    | _ => .error .badOpcode

/-- An agent's event (30_encoding R86). -/
def decodeEvent : List Byte → Decoded
  | [] => .error .short
  | op :: s =>
    match op.toNat with
    | 0x80 => arg8 .rxByte s
    | 0x81 => arg32 .rxTerr s
    | 0x82 => arg0 .txTake s
    | 0x83 => arg32 .txTerr s
    | 0x84 => arg0 .rxTimeout s
    | 0x88 => argChannel (fun ch => arg32 (.tRead ch)) s
    | 0x89 => argChannel (fun ch => argBytes (.tWrite ch)) s
    | 0x90 => arg0 .srvDispatch s
    | _ => .error .badOpcode

/-- A decoder's instruction when it takes the whole byte string. -/
def exact (d : Decoded) : Except DecodeError Instr :=
  match d with
  | .error e => .error e
  | .ok (i, s) => if s.isEmpty then .ok i else .error .trailing

/-! ### Table words (the host's numbering of spec/opcode_table.json) -/

/-- `n` bytes of a number, least significant first, then `pad` zero bytes. -/
def wordBytes : Nat → Nat → Nat → List Byte
  | 0, _, pad => List.replicate pad 0#8
  | n + 1, w, pad => BitVec.ofNat 8 w :: wordBytes n (w / 256) pad

/-- The bytes a table word stands for, operand bytes zero. -/
def tableBytes (nbits w : Nat) : List Byte := wordBytes ((nbits + 7) / 8) w 16

/-- What language a table word is read in: a 16-bit word is a frame header; an 8-bit word is a subframe code, the
block's opcode (00_scope glossary); a byte that is no subframe code is an event or a command (log 11). -/
inductive WordKind where
  | frame
  | subframe
  | event
  | command
deriving DecidableEq, Repr

/-- The language a table word is read in and its instruction with the bytes after it. -/
def decodeWord (nbits w : Nat) : WordKind × Decoded :=
  if 8 < nbits then (.frame, decodeFrame .reference (tableBytes nbits w))
  else match decodeSub .reference (tableBytes nbits w) with
    | .ok r => (.subframe, .ok r)
    | .error _ =>
      match decodeEvent (tableBytes nbits w) with
      | .ok r => (.event, .ok r)
      | .error _ => (.command, decodeCommand (tableBytes nbits w))

/-- The instruction of a table word. -/
def decodeTableWord (nbits w : Nat) : Option Instr :=
  match (decodeWord nbits w).2 with
  | .ok (i, _) => some i
  | .error _ => none

/-- The bytes of a table word's instruction, without the zero bytes after it. -/
def tableWordBytes (nbits w : Nat) : List Byte :=
  match (decodeWord nbits w).2 with
  | .ok (_, rest) => (tableBytes nbits w).take ((tableBytes nbits w).length - rest.length)
  | .error _ => tableBytes nbits w

/-! ### The encoder -/

/-- A byte string argument. -/
def encBytes (d : List Byte) : List Byte := le32 (BitVec.ofNat 32 d.length) ++ d

/-- A frame argument of `TX_FRAMES`. -/
def encFrameArg (f : Frame) : List Byte := srcByte f.src f.rr :: f.dst :: encBytes f.payload

/-- A pattern argument of `RQ_WRITE`. -/
def encPattern (p : List Byte) : List Byte := BitVec.ofNat 8 p.length :: p

/-- The bytes of an instruction. -/
def encode : Instr → List Byte
  | .frame src rr dst len payload crc => [0x54#8, 0xAB#8, srcByte src rr, dst] ++ len.bytes ++ payload ++ le16 crc
  | .writeI8N n r vals => 0x00#8 :: (n.bytes ++ r.bytes ++ vals)
  | .writeI8_1 r v0 => 0x01#8 :: (r.bytes ++ [v0])
  | .writeI8_2 r v0 v1 => 0x02#8 :: (r.bytes ++ [v0, v1])
  | .writeI8_3 r v0 v1 v2 => 0x03#8 :: (r.bytes ++ [v0, v1, v2])
  | .writeI16N n r vals => 0x04#8 :: (n.bytes ++ r.bytes ++ vals.flatMap le16)
  | .writeI16_1 r v0 => 0x05#8 :: (r.bytes ++ le16 v0)
  | .writeI16_2 r v0 v1 => 0x06#8 :: (r.bytes ++ le16 v0 ++ le16 v1)
  | .writeI16_3 r v0 v1 v2 => 0x07#8 :: (r.bytes ++ le16 v0 ++ le16 v1 ++ le16 v2)
  | .writeI32N n r vals => 0x08#8 :: (n.bytes ++ r.bytes ++ vals.flatMap le32)
  | .writeI32_1 r v0 => 0x09#8 :: (r.bytes ++ le32 v0)
  | .writeI32_2 r v0 v1 => 0x0A#8 :: (r.bytes ++ le32 v0 ++ le32 v1)
  | .writeI32_3 r v0 v1 v2 => 0x0B#8 :: (r.bytes ++ le32 v0 ++ le32 v1 ++ le32 v2)
  | .writeF32N n r vals => 0x0C#8 :: (n.bytes ++ r.bytes ++ vals.flatMap le32)
  | .writeF32_1 r v0 => 0x0D#8 :: (r.bytes ++ le32 v0)
  | .writeF32_2 r v0 v1 => 0x0E#8 :: (r.bytes ++ le32 v0 ++ le32 v1)
  | .writeF32_3 r v0 v1 v2 => 0x0F#8 :: (r.bytes ++ le32 v0 ++ le32 v1 ++ le32 v2)
  | .readI8N n r => 0x10#8 :: (n.bytes ++ r.bytes)
  | .readI8_1 r => 0x11#8 :: r.bytes
  | .readI8_2 r => 0x12#8 :: r.bytes
  | .readI8_3 r => 0x13#8 :: r.bytes
  | .readI16N n r => 0x14#8 :: (n.bytes ++ r.bytes)
  | .readI16_1 r => 0x15#8 :: r.bytes
  | .readI16_2 r => 0x16#8 :: r.bytes
  | .readI16_3 r => 0x17#8 :: r.bytes
  | .readI32N n r => 0x18#8 :: (n.bytes ++ r.bytes)
  | .readI32_1 r => 0x19#8 :: r.bytes
  | .readI32_2 r => 0x1A#8 :: r.bytes
  | .readI32_3 r => 0x1B#8 :: r.bytes
  | .readF32N n r => 0x1C#8 :: (n.bytes ++ r.bytes)
  | .readF32_1 r => 0x1D#8 :: r.bytes
  | .readF32_2 r => 0x1E#8 :: r.bytes
  | .readF32_3 r => 0x1F#8 :: r.bytes
  | .replyI8N n r vals => 0x20#8 :: (n.bytes ++ r.bytes ++ vals)
  | .replyI8_1 r v0 => 0x21#8 :: (r.bytes ++ [v0])
  | .replyI8_2 r v0 v1 => 0x22#8 :: (r.bytes ++ [v0, v1])
  | .replyI8_3 r v0 v1 v2 => 0x23#8 :: (r.bytes ++ [v0, v1, v2])
  | .replyI16N n r vals => 0x24#8 :: (n.bytes ++ r.bytes ++ vals.flatMap le16)
  | .replyI16_1 r v0 => 0x25#8 :: (r.bytes ++ le16 v0)
  | .replyI16_2 r v0 v1 => 0x26#8 :: (r.bytes ++ le16 v0 ++ le16 v1)
  | .replyI16_3 r v0 v1 v2 => 0x27#8 :: (r.bytes ++ le16 v0 ++ le16 v1 ++ le16 v2)
  | .replyI32N n r vals => 0x28#8 :: (n.bytes ++ r.bytes ++ vals.flatMap le32)
  | .replyI32_1 r v0 => 0x29#8 :: (r.bytes ++ le32 v0)
  | .replyI32_2 r v0 v1 => 0x2A#8 :: (r.bytes ++ le32 v0 ++ le32 v1)
  | .replyI32_3 r v0 v1 v2 => 0x2B#8 :: (r.bytes ++ le32 v0 ++ le32 v1 ++ le32 v2)
  | .replyF32N n r vals => 0x2C#8 :: (n.bytes ++ r.bytes ++ vals.flatMap le32)
  | .replyF32_1 r v0 => 0x2D#8 :: (r.bytes ++ le32 v0)
  | .replyF32_2 r v0 v1 => 0x2E#8 :: (r.bytes ++ le32 v0 ++ le32 v1)
  | .replyF32_3 r v0 v1 v2 => 0x2F#8 :: (r.bytes ++ le32 v0 ++ le32 v1 ++ le32 v2)
  | .writeError r e => 0x30#8 :: (r.bytes ++ e.bytes)
  | .readError r e => 0x31#8 :: (r.bytes ++ e.bytes)
  | .tunnelC2s ch len data => 0x40#8 :: (ch.bytes ++ len.bytes ++ data)
  | .tunnelS2c ch len data => 0x41#8 :: (ch.bytes ++ len.bytes ++ data)
  | .tunnelPoll ch m => 0x42#8 :: (ch.bytes ++ m.bytes)
  | .nop => [0x50#8]
  | .crcInit => [0x01#8]
  | .crcByte d => [0x02#8, d]
  | .crcRead => [0x03#8]
  | .crcCheck d => 0x04#8 :: le16 d
  | .venc v => 0x08#8 :: le32 v
  | .vdecClr => [0x09#8]
  | .vdecByte d => [0x0A#8, d]
  | .txFrames frames => 0x10#8 :: (le32 (BitVec.ofNat 32 frames.length) ++ frames.flatMap encFrameArg)
  | .rxArm cap => 0x11#8 :: le32 cap
  | .rxCancel => [0x12#8]
  | .srvStart => [0x20#8]
  | .csrRead i => [0x21#8, i]
  | .csrWrite i v => 0x22#8 :: i :: le32 v
  | .rqClear => [0x30#8]
  | .rqSetRr b => [0x31#8, if b then 1#8 else 0#8]
  | .rqWrite reg t values =>
    0x32#8 :: (le32 reg ++ BitVec.ofNat 8 t.index :: (le32 (BitVec.ofNat 32 values.length) ++ values.flatMap encPattern))
  | .rqRead reg t n => 0x33#8 :: (le32 reg ++ BitVec.ofNat 8 t.index :: le32 n)
  | .rqGet => [0x34#8]
  | .rpParse payload => 0x38#8 :: encBytes payload
  | .rxByte d => [0x80#8, d]
  | .rxTerr e => 0x81#8 :: le32 e
  | .txTake => [0x82#8]
  | .txTerr e => 0x83#8 :: le32 e
  | .rxTimeout => [0x84#8]
  | .tRead ch n => 0x88#8 :: ch.setWidth 8 :: le32 n
  | .tWrite ch data => 0x89#8 :: ch.setWidth 8 :: encBytes data
  | .srvDispatch => [0x90#8]

end Sys2Proof
end

