-- ==== Sys2Proof/Machine/State.lean ====
section
/-! DEFINITION. The state of the block: every element of 10_state R22 to R39 under its own name, the parameters, and
the model's own fields (the parser in progress, the outputs of a step, what the agents offer). Plain data throughout.
A buffer and its valid length (`RXBUF` and `RXLEN`, and so on) are one list of the valid bytes (log 15). -/

namespace Sys2Proof.Machine

/-- `RX_STATE` (10_state R25). -/
inductive RxState where
  | idle
  | awaitFrame
  | readingMore
deriving DecidableEq, Repr

/-- `TX_STATE` (10_state R27). -/
inductive TxState where
  | idle
  | busy
deriving DecidableEq, Repr

/-- `RX_OWNER`, `TX_OWNER` and a completion's owner (10_state R25, R27; 60_exceptions R370). -/
inductive Owner where
  | host
  | server
deriving DecidableEq, Repr

/-- `SRV_STATE` (10_state R28). -/
inductive SrvState where
  | idle
  | frameReceived
  | dispatching
  | replyAssembled
deriving DecidableEq, Repr

/-- `VD_ST` (10_state R23). -/
inductive VdStatus where
  | empty
  | partialValue
  | done
  | clamped
deriving DecidableEq, Repr

/-- The seven statistics counters, each below `2 ^ STATS_WIDTH` (10_state R31). -/
structure Stats where
  wrongId : Nat
  receiveOverrun : Nat
  unknownSubframe : Nat
  missingSubframe : Nat
  malformedSubframe : Nat
  writeError : Nat
  checksumMismatch : Nat
deriving DecidableEq, Repr

/-- The name of a counter (10_state R31). -/
inductive Counter where
  | wrongId
  | receiveOverrun
  | unknownSubframe
  | missingSubframe
  | malformedSubframe
  | writeError
  | checksumMismatch
deriving DecidableEq, Repr

/-- The fault causes, the bits of `FAULT` (10_state R34, 60_exceptions R362). -/
inductive FaultBit where
  | doubleRead
  | doubleWrite
  | txOversize
  | serverOwns
  | rqOverflow
  | badCsr
  | badCmd
  | badTunnel
  | srvRestart
deriving DecidableEq, Repr

/-- A tunnel channel's two FIFOs, the oldest byte first (10_state R37). -/
structure Tunnel where
  id : BitVec 7
  rxq : List Byte
  txq : List Byte
deriving DecidableEq, Repr

/-- What `RP_MAP` records for a register (10_state R39). -/
inductive RpEntry where
  | val (v : Value)
  | err (e : Word)
deriving DecidableEq, Repr

/-- The ports at which the agents drive the block (00_scope R4, 30_encoding R85, R86). The transport has one port for
the bytes it delivers and one for the bytes it takes; each tunnel channel has one for reads and one for writes. -/
inductive Port where
  | host
  | transportRx
  | transportTx
  | timer
  | tunnelRead (ch : BitVec 7)
  | tunnelWrite (ch : BitVec 7)
  | dispatch
deriving DecidableEq, Repr

/-- A command or event an agent offers at its port, as bytes. -/
structure Offer where
  port : Port
  bytes : List Byte
deriving DecidableEq, Repr

/-- Whose turn it is: RESET (70_reset R390), or the agent at a port (00_scope R4). -/
inductive Move where
  | reset
  | take (p : Port)
deriving DecidableEq, Repr

/-- `port` of a completion (60_exceptions R370). -/
inductive CompletionPort where
  | rx
  | tx
deriving DecidableEq, Repr

/-- Completion status (60_exceptions R361). -/
inductive Status where
  | ok
  | truncated
  | canceled
  | timedOut
  | transportError (e : Word)
  | failed
deriving DecidableEq, Repr

/-- `data` of a completion (60_exceptions R370). -/
inductive CompletionData where
  | frame (src : BitVec 7) (rr : Bool) (dst : Byte) (len : Word) (payload : List Byte)
  | sent (bytes : Nat)
  | none
deriving DecidableEq, Repr

/-- A completion output to the host; one to the server is consumed in its step (60_exceptions R370). -/
structure Completion where
  port : CompletionPort
  status : Status
  data : CompletionData
deriving DecidableEq, Repr

/-- What a command or event returns in its step (30_encoding R85, R86). -/
inductive Result where
  | none
  | crc (v : Half)
  | check (b : Bool)
  | encoded (bytes : List Byte)
  | varint (st : VdStatus) (value : Word) (count : Nat)
  | csr (v : Word)
  | request (bytes : List Byte) (rr : Bool)
  | reply (map : List (Word × RpEntry)) (used : Word)
  | byte (d : Byte)
  | bytes (d : List Byte)
  | accepted (n : Nat)
deriving DecidableEq, Repr

/-- The parse loop that runs inside a step: the dispatch unit's (45_dispatch R287), the reply parser's
(44_subframe_codec R260), or the reply parser's after it met the end. `none` between the spec's steps (log 13). -/
inductive Parser where
  | none
  | dispatch
  | reply
  | replyEnded
deriving DecidableEq, Repr

/-- Why the machine stops. Every one is what 93_implementation_defined part 2 calls a modelling error: a state that no
run from reset reaches, where the spec asks a model to report a fault (log 16). All are safe: the model stops. -/
inductive Fault where
  /-- raised by `CSR_READ` of `STATUS` in a state whose fields have no encoding (U7) -/
  | statusEncoding
  /-- raised by `TX_TAKE` and `SRV_DISPATCH` when a buffer is shorter than its length says (U12, 20_memory R61) -/
  | outOfBounds
  /-- raised by `RX_BYTE` with a full receive buffer (U13) -/
  | rxOverflow
  /-- raised where a completion the dispatch unit cannot get would reach it: `TRUNCATED` by FRAME, `CANCELED` by
  `RX_CANCEL` (U14) -/
  | serverCompletion
  /-- raised by `SRV_DISPATCH` when its reply finds the transmitter busy or does not fit it (U14) -/
  | replyPath
deriving DecidableEq, Repr

/-- Why the model has no meaning for a step. Both are safe: the model stops. -/
inductive Refusal where
  /-- an instruction that has no meaning yet; raised by `exec` only -/
  | notModelled (mnemonic : String)
  /-- an agent other than the host offered bytes that are none of its events; 30_encoding R86 lists no other event
  (log 10); raised by `step` -/
  | undefinedEvent
deriving DecidableEq, Repr

/-- The state of the block. -/
structure State where
  /-- the parameters (00_scope R1); never changed (log 1) -/
  cfg : Config
  /-- `CRC_REG` (R22) -/
  crcReg : Half
  /-- `VD_ACC` (R23) -/
  vdAcc : Word
  /-- `VD_CNT` (R23) -/
  vdCnt : Nat
  /-- `VD_ST` (R23) -/
  vdSt : VdStatus
  /-- `RXBUF[0..RXLEN)` (R24) -/
  rxBuf : List Byte
  /-- `RX_STATE` (R25) -/
  rxState : RxState
  /-- `RX_CAP` (R25) -/
  rxCap : Nat
  /-- `RX_OWNER` (R25) -/
  rxOwner : Owner
  /-- `RXF_SRC` (R26) -/
  rxfSrc : BitVec 7
  /-- `RXF_RR` (R26) -/
  rxfRr : Bool
  /-- `RXF_DST` (R26) -/
  rxfDst : Byte
  /-- `RXF_LEN` (R26) -/
  rxfLen : Word
  /-- the valid bytes of `RXF_PAYLOAD` (R26) -/
  rxfPayload : List Byte
  /-- `RXF_TRUNC` (R26) -/
  rxfTrunc : Bool
  /-- `TX_STATE` (R27) -/
  txState : TxState
  /-- `TXBUF[0..TXLEN)` (R27) -/
  txBuf : List Byte
  /-- `TXPOS` (R27) -/
  txPos : Nat
  /-- `TX_OWNER` (R27) -/
  txOwner : Owner
  /-- `SRV_EN` (R28) -/
  srvEn : Bool
  /-- `SRV_STATE` (R28) -/
  srvState : SrvState
  /-- `PP` (R21, R29) -/
  pp : Nat
  /-- `REPLY_BUF[0..REPLY_LEN)` (R29) -/
  replyBuf : List Byte
  /-- `NEED` (R29) -/
  need : Bool
  /-- `ABORT` (R29) -/
  abort : Bool
  /-- `TUNNEL_SEEN` (R29) -/
  tunnelSeen : Bool
  /-- `NODE_ID` (R30) -/
  nodeId : Byte
  /-- the statistics counters (R31) -/
  stats : Stats
  /-- `FAULT` (R34) -/
  fault : Word
  /-- `T_RXQ`, `T_TXQ` of each channel of `TUNNEL_IDS` (R37) -/
  tunnels : List Tunnel
  /-- `RQ_BUF[0..RQ_LEN)` (R38) -/
  rqBuf : List Byte
  /-- `RQ_RR` (R38) -/
  rqRr : Bool
  /-- `RP_MAP` (R39), sorted by register, no register twice -/
  rpMap : List (Word × RpEntry)
  /-- `RP_USED` (R39) -/
  rpUsed : Word
  /-- the store calls made since power-up, writes and reads, in order (R41, 45_dispatch R281) -/
  storeLog : List StoreCall
  /-- MODEL: the parse loop in progress (log 13) -/
  parser : Parser
  /-- MODEL: the operand of the `RP_PARSE` in progress (log 13) -/
  rpPayload : List Byte
  /-- MODEL: the index `i` of the `RP_PARSE` in progress (log 13) -/
  rpPos : Nat
  /-- MODEL: what the last step returned (log 14) -/
  result : Result
  /-- MODEL: the completion the last step output to the host (log 14) -/
  completion : Option Completion
  /-- MODEL: what the agents offer, each port's oldest first (log 6) -/
  offers : List Offer
  /-- MODEL: whose turn it is, the next first (log 6) -/
  sched : List Move
deriving DecidableEq, Repr

/-- Every counter zero. -/
def Stats.zero : Stats := ⟨0, 0, 0, 0, 0, 0, 0⟩

/-- The block right after RESET at parameters `c` (70_reset R390). -/
def State.resetWith (c : Config) : State :=
  { cfg := c
    crcReg := c.crcInit
    vdAcc := 0#32
    vdCnt := 0
    vdSt := .empty
    rxBuf := []
    rxState := .idle
    rxCap := 0
    rxOwner := .host
    rxfSrc := 0#7
    rxfRr := false
    rxfDst := 0#8
    rxfLen := 0#32
    rxfPayload := []
    rxfTrunc := false
    txState := .idle
    txBuf := []
    txPos := 0
    txOwner := .host
    srvEn := false
    srvState := .idle
    pp := 0
    replyBuf := []
    need := false
    abort := false
    tunnelSeen := false
    nodeId := c.nodeIdReset
    stats := .zero
    fault := 0#32
    tunnels := c.tunnelIds.map (fun id => ⟨id, [], []⟩)
    rqBuf := []
    rqRr := false
    rpMap := []
    rpUsed := 0#32
    storeLog := []
    parser := .none
    rpPayload := []
    rpPos := 0
    result := .none
    completion := none
    offers := []
    sched := [] }

/-- The block right after reset, at the reference parameters (log 2), before any agent offers anything (log 12). -/
def State.reset : State := State.resetWith .reference

end Sys2Proof.Machine
end

