-- ==== Sys2Proof/Machine/Operands.lean ====
section
/-! DEFINITION. Where an instruction's operands are found: the inbound payload, the tunnel FIFOs, the register store,
the reply map, and the encodings of the subframes the block emits. -/

namespace Sys2Proof.Machine

/-! ### The inbound frame (45_dispatch R286, R287, R289) -/

/-- `P`: `RXF_PAYLOAD[0 .. RXF_LEN)` (45_dispatch R287). -/
def State.payload (s : State) : List Byte := s.rxfPayload.take s.rxfLen.toNat

/-- `NODE_ID[6:0]` (10_state R30). -/
def State.nodeAddr (s : State) : BitVec 7 := s.nodeId.setWidth 7

/-- A frame to every node (45_dispatch R286). -/
def State.isBroadcast (s : State) : Bool := s.rxfDst == 0x7F#8

/-- The address check (45_dispatch R286): the destination byte is compared in full. -/
def State.isAddressed (s : State) : Bool := s.rxfDst == s.nodeAddr.setWidth 8 || s.isBroadcast

/-- `SEND_OK` (45_dispatch R287, R289): false exactly for a broadcast without the reply flag. -/
def State.sendOk (s : State) : Bool := !(s.isBroadcast && !s.rxfRr)

/-! ### The register store (45_dispatch R281, R282) -/

/-- The example store's bits for a register: every byte is `reg[7:0]` (45_dispatch R297). -/
def sampleBits (reg : Word) : Word :=
  let b := reg.setWidth 8
  b ++ b ++ b ++ b

/-- The writes among the store calls, in order: only they change the store (45_dispatch R282). -/
def madeWrites (calls : List StoreCall) : List StoreWrite :=
  calls.filterMap (fun c => match c with
    | .write w => some w
    | .read _ _ => none)

/-- The calls of `k` reads from register `g` on, in order (45_dispatch R296; 20_memory R72). -/
def readCalls (t : VType) (g : Word) (k : Nat) : List StoreCall :=
  (List.range k).map (fun x => .read (g + BitVec.ofNat 32 x) t)

/-- The answer of `Store.Write` given the writes made before. -/
def storeWriteAnswer (st : Store) (done : List StoreWrite) (w : StoreWrite) : Word :=
  match st with
  | .external => Config.storeWriteAnswer done w
  | .sample _ => if w.reg = 32#32 then 7#32 else 0#32

/-- The first answer listed for a register. -/
def findAnswer (reg : Word) : List (Word × ReadAnswer) → Option ReadAnswer
  | [] => none
  | (r, a) :: l => if r = reg then some a else findAnswer reg l

/-- The answer of `Store.Read` given the writes made before. -/
def storeReadAnswer (st : Store) (done : List StoreWrite) (reg : Word) (t : VType) : ReadAnswer :=
  match st with
  | .external => Config.storeReadAnswer done reg t
  | .sample special =>
    match findAnswer reg special with
    | some a => a
    | none => if reg = 32#32 then .err 3#32 else .val (sampleBits reg)

/-- The Value of type `t` in the low bits of a word: an answer has exactly its type's width (45_dispatch R282). -/
def valueOfBits (t : VType) (b : Word) : Value :=
  match t with
  | .i8 => .i8 (b.setWidth 8)
  | .i16 => .i16 (b.setWidth 16)
  | .i32 => .i32 b
  | .f32 => .f32 b

/-- `Store.Read(reg, t)` in state `s`: a Value of type `t`, or the error code. -/
def State.storeRead (s : State) (reg : Word) (t : VType) : Except Word Value :=
  match storeReadAnswer s.cfg.store (madeWrites s.storeLog) reg t with
  | .val b => .ok (valueOfBits t b)
  | .err e => .error e

/-! ### Tunnel channels (10_state R37, 45_dispatch R332) -/

/-- A channel is registered iff it is in `TUNNEL_IDS` (45_dispatch R332). -/
def State.registered (s : State) (ch : Nat) : Bool := s.cfg.tunnelIds.any (fun id => id.toNat == ch)

/-- The FIFOs of a channel among `ts`; a channel that is not there has nothing in them. -/
def findTunnel (ch : Nat) : List Tunnel → Tunnel
  | [] => ⟨0#7, [], []⟩
  | t :: ts => if t.id.toNat = ch then t else findTunnel ch ts

/-- `T_RXQ[ch]`. -/
def State.rxq (s : State) (ch : Nat) : List Byte := (findTunnel ch s.tunnels).rxq

/-- `T_TXQ[ch]`. -/
def State.txq (s : State) (ch : Nat) : List Byte := (findTunnel ch s.tunnels).txq

/-- `T_RXQ[ch] <- q`. -/
def State.setRxq (s : State) (ch : Nat) (q : List Byte) : State :=
  { s with tunnels := s.tunnels.map (fun t => if t.id.toNat = ch then { t with rxq := q } else t) }

/-- `T_TXQ[ch] <- q`. -/
def State.setTxq (s : State) (ch : Nat) (q : List Byte) : State :=
  { s with tunnels := s.tunnels.map (fun t => if t.id.toNat = ch then { t with txq := q } else t) }

/-! ### The reply map (10_state R39, 44_subframe_codec R261) -/

/-- `RP_MAP[reg] <- e`: the later entry replaces the earlier one; the list stays sorted. -/
def rpInsert (reg : Word) (e : RpEntry) : List (Word × RpEntry) → List (Word × RpEntry)
  | [] => [(reg, e)]
  | (r, e') :: m =>
    if reg.toNat < r.toNat then (reg, e) :: (r, e') :: m
    else if reg = r then (reg, e) :: m
    else (r, e') :: rpInsert reg e m

/-- `RP_MAP[reg]`. -/
def rpLookup (reg : Word) : List (Word × RpEntry) → Option RpEntry
  | [] => none
  | (r, e) :: m => if r = reg then some e else rpLookup reg m

/-- `RP_MAP[reg + x mod 2^32] <- VAL(v_x)` for each value in order (44_subframe_codec R225). -/
def rpInsertRun (reg : Word) : List Value → List (Word × RpEntry) → List (Word × RpEntry)
  | [], m => m
  | v :: vs, m => rpInsertRun (reg + 1#32) vs (rpInsert reg (.val v) m)

/-- The registers of a map rise strictly, so equal maps are equal lists. -/
abbrev rpSorted (m : List (Word × RpEntry)) : Prop := m.Pairwise (fun a b => a.1.toNat < b.1.toNat)

/-! ### Subframes the block emits (44_subframe_codec R245) -/

/-- The canonical count field: the code's low bits and the explicit count, if any (30_encoding R102). -/
def countField (n : Nat) : Nat × List Byte := if 1 ≤ n ∧ n ≤ 3 then (n, []) else (0, vencNat n)

/-- `sub_rw(cls, t, R, vals)`: class 0 write, 2 reply (44_subframe_codec R245). -/
def subRw (cls : Nat) (t : VType) (reg : Word) (vals : List Value) : List Byte :=
  BitVec.ofNat 8 (0x10 * cls + 4 * t.index + (countField vals.length).1) ::
    ((countField vals.length).2 ++ venc reg ++ vals.flatMap Value.bytes)

/-- `sub_read(t, R, N)`. -/
def subRead (t : VType) (reg : Word) (n : Nat) : List Byte :=
  BitVec.ofNat 8 (0x10 + 4 * t.index + (countField n).1) :: ((countField n).2 ++ venc reg)

/-- `sub_err(c, R, E)`: `c` is 0x30 or 0x31. -/
def subErr (c : Byte) (reg e : Word) : List Byte := c :: (venc reg ++ venc e)

/-- `sub_s2c(ch, data)`. -/
def subS2c (ch : Word) (data : List Byte) : List Byte := 0x41#8 :: (venc ch ++ vencNat data.length ++ data)

end Sys2Proof.Machine
end

