-- ==== Sys2Proof/Machine/Flags.lean ====
section
/-! DEFINITION. The status encodings: `FAULT` bits, the `STATUS` word, completion status codes, the counters'
arithmetic and the incremental varuint decoder's flags (10_state R23, R31, R32, R34; 40_varint R128; 60_exceptions
R361, R362). The block has no condition codes (10_state R40). -/

namespace Sys2Proof.Machine

/-- A fault's cause code, its bit number in `FAULT` (60_exceptions R362). -/
def FaultBit.code : FaultBit → Nat
  | .doubleRead => 0
  | .doubleWrite => 1
  | .txOversize => 2
  | .serverOwns => 3
  | .rqOverflow => 4
  | .badCsr => 5
  | .badCmd => 6
  | .badTunnel => 7
  | .srvRestart => 8

/-- `FAULT` with one bit set. -/
def FaultBit.mask (f : FaultBit) : Word := 1#32 <<< f.code

/-- The code of `SRV_STATE` in `STATUS[2:1]` (10_state R32). -/
def SrvState.code : SrvState → Nat
  | .idle => 0
  | .frameReceived => 1
  | .dispatching => 2
  | .replyAssembled => 3

/-- The code of `RX_STATE` in `STATUS[4:3]` (10_state R32). -/
def RxState.code : RxState → Nat
  | .idle => 0
  | .awaitFrame => 1
  | .readingMore => 2

/-- The code of `VD_ST` in `STATUS[8:6]` (10_state R32). -/
def VdStatus.code : VdStatus → Nat
  | .empty => 0
  | .partialValue => 1
  | .done => 2
  | .clamped => 3

/-- A completion status code (60_exceptions R361). -/
def Status.code : Status → Nat
  | .ok => 0
  | .truncated => 1
  | .canceled => 2
  | .timedOut => 3
  | .transportError _ => 4
  | .failed => 5

/-- A bit at a place of a CSR. -/
def bitAt (b : Bool) (lo : Nat) : Word := if b then 1#32 <<< lo else 0#32

/-- A field at a place of a CSR. -/
def fieldAt (n lo : Nat) : Word := BitVec.ofNat 32 n <<< lo

/-- `STATUS` (10_state R32). -/
def State.statusWord (s : State) : Word :=
  bitAt s.srvEn 0 ||| fieldAt s.srvState.code 1 ||| fieldAt s.rxState.code 3 ||| bitAt (s.txState == .busy) 5
    ||| fieldAt s.vdSt.code 6 ||| fieldAt s.vdCnt 9 ||| bitAt s.rxfTrunc 12

/-- The states whose `STATUS` the table of 10_state R32 allows to be read (93_implementation_defined U7). -/
def State.statusLegal (s : State) : Bool :=
  s.srvState != .dispatching && s.rxState != .awaitFrame && decide (s.vdCnt ≤ 5)

/-- A counter's value (10_state R31). -/
def Stats.get (st : Stats) : Counter → Nat
  | .wrongId => st.wrongId
  | .receiveOverrun => st.receiveOverrun
  | .unknownSubframe => st.unknownSubframe
  | .missingSubframe => st.missingSubframe
  | .malformedSubframe => st.malformedSubframe
  | .writeError => st.writeError
  | .checksumMismatch => st.checksumMismatch

/-- `X += 1` modulo `2^STATS_WIDTH` on one counter (00_scope R5, 10_state R31). -/
def Stats.bump (w : Nat) (st : Stats) : Counter → Stats
  | .wrongId => { st with wrongId := (st.wrongId + 1) % 2 ^ w }
  | .receiveOverrun => { st with receiveOverrun := (st.receiveOverrun + 1) % 2 ^ w }
  | .unknownSubframe => { st with unknownSubframe := (st.unknownSubframe + 1) % 2 ^ w }
  | .missingSubframe => { st with missingSubframe := (st.missingSubframe + 1) % 2 ^ w }
  | .malformedSubframe => { st with malformedSubframe := (st.malformedSubframe + 1) % 2 ^ w }
  | .writeError => { st with writeError := (st.writeError + 1) % 2 ^ w }
  | .checksumMismatch => { st with checksumMismatch := (st.checksumMismatch + 1) % 2 ^ w }

/-- The incremental decoder's registers. -/
structure VdRegs where
  st : VdStatus
  acc : Word
  cnt : Nat
deriving DecidableEq, Repr

/-- A byte after `DONE` or `CLAMPED` starts a new value (40_varint R128). -/
def vdStart (r : VdRegs) : VdRegs :=
  match r.st with
  | .done => { r with acc := 0#32, cnt := 0 }
  | .clamped => { r with acc := 0#32, cnt := 0 }
  | _ => r

/-- One byte into the incremental decoder (40_varint R128). -/
def vdFeed (c : Config) (r0 : VdRegs) (d : Byte) : VdRegs :=
  let r := vdStart r0
  let acc := r.acc ||| ((d &&& 0x7F#8).setWidth 32 <<< (7 * r.cnt))
  if d.msb = false then
    if r.cnt = 4 ∧ d.extractLsb' 4 3 ≠ 0#3 ∧ c.fifthOverflow = .clamp then ⟨.clamped, 0xFFFFFFFF#32, r.cnt + 1⟩
    else ⟨.done, acc, r.cnt + 1⟩
  else if r.cnt + 1 = 5 then ⟨.clamped, 0xFFFFFFFF#32, r.cnt + 1⟩
  else ⟨.partialValue, acc, r.cnt + 1⟩

end Sys2Proof.Machine
end

