-- ==== Sys2Proof/Machine/Ops.lean ====
section
/-! DEFINITION. The operations the instructions share: taking one's turn at a port, raising a fault, emitting a
completion, counting, storing a register, appending to the reply, ending a parse. -/

namespace Sys2Proof.Machine

/-- What a meaning answers. -/
abbrev Out := Host.Outcome State Fault Refusal

/-- Run `k` after `o` unless `o` stopped. -/
def Out.andThen (o : Out) (k : State → Out) : Out :=
  match o with
  | .next s => k s
  | .fault f => .fault f
  | .refused r => .refused r

/-! ### Turns and outputs (00_scope R3, R4; log 6, log 14) -/

/-- The first offer at a port. -/
def findOffer (p : Port) : List Offer → Option (List Byte)
  | [] => none
  | o :: os => if o.port = p then some o.bytes else findOffer p os

/-- The offers without the first one at a port. -/
def dropOffer (p : Port) : List Offer → List Offer
  | [] => []
  | o :: os => if o.port = p then os else o :: dropOffer p os

/-- The agent at `p` takes its turn and its offer is taken: the outputs of the step before are gone. -/
def State.accept (s : State) (p : Port) : State :=
  { s with sched := s.sched.tail, offers := dropOffer p s.offers, result := .none, completion := none }

/-- An event that is not enabled is not taken: the agent waits, its offer stays (30_encoding R87, U11; log 7). -/
def State.wait (s : State) : State :=
  { s with sched := s.sched.tail, result := .none, completion := none }

/-- `raise Fault(F)` (60_exceptions R365): the bit is set; the caller passes the state before the step's writes. -/
def State.raise (s : State) (f : FaultBit) : State := { s with fault := s.fault ||| f.mask }

/-- `emit Completion(HOST, port, status, data)` (60_exceptions R370). -/
def State.emit (s : State) (port : CompletionPort) (status : Status) (data : CompletionData) : State :=
  { s with completion := some ⟨port, status, data⟩ }

/-- `X += 1` (10_state R31). -/
def State.bump (s : State) (c : Counter) : State := { s with stats := s.stats.bump s.cfg.statsWidth c }

/-- RESET (70_reset R390): every element takes its reset value and no completion is emitted. The parameters, the
external store and the agents' own offers are not the block's (log 23). -/
def State.resetBlock (s : State) : State :=
  { State.resetWith s.cfg with storeLog := s.storeLog, offers := s.offers, sched := s.sched.tail }

/-! ### The parse loops (45_dispatch R287 to R292, 44_subframe_codec R260; log 13, log 18) -/

/-- What a subframe does depends on the parser that met it (30_encoding R100); met by none, it does nothing. -/
def State.inParser (s : State) (dispatch reply : State → State) : State :=
  match s.parser with
  | .dispatch => dispatch s
  | .reply => reply s
  | _ => s

/-- `unknown()` (45_dispatch R291). -/
def unknownSub (s : State) : State := { s.bump .unknownSubframe with abort := true }

/-- A short subframe (45_dispatch R292). -/
def malformedSub (s : State) : State := { s.bump .malformedSubframe with abort := true }

/-- `append_reply(s)` (45_dispatch R290). -/
def appendReply (sub : List Byte) (s : State) : State :=
  if s.cfg.replyCap < s.replyBuf.length + sub.length then { s.bump .missingSubframe with abort := true }
  else { s with replyBuf := s.replyBuf ++ sub }

/-- The reply parser meets a code it does not accept, or a short subframe: the parse ends there
(44_subframe_codec R243, R244, R262). -/
def replyStop (s : State) : State := { s with parser := .replyEnded }

/-- `i <- j; RP_USED <- j` (44_subframe_codec R260). -/
def replyAdvance (size : Nat) (s : State) : State :=
  { s with rpPos := s.rpPos + size, rpUsed := BitVec.ofNat 32 (s.rpPos + size) }

/-! ### Register operations on the store (45_dispatch R295, R296; 20_memory R72) -/

/-- `e <- Store.Write(g, v)`: the call is recorded, the answer returned. -/
def storeWrite (g : Word) (v : Value) (s : State) : State × Word :=
  ({ s with storeLog := s.storeLog ++ [.write ⟨g, v⟩] },
    storeWriteAnswer s.cfg.store (madeWrites s.storeLog) ⟨g, v⟩)

/-- The writes of one subframe, in register order, with the errors in order (`ERRS`, 45_dispatch R295). -/
def storeWrites : Word → List Value → State → State × List (Word × Word)
  | _, [], s => (s, [])
  | g, v :: vs, s =>
    let (s1, e) := storeWrite g v s
    let (s2, errs) := storeWrites (g + 1#32) vs s1
    (s2, if e ≠ 0#32 then (g, e) :: errs else errs)

/-- One `WRITE_ERROR` subframe per error, until one does not fit (45_dispatch R295). -/
def appendErrors : List (Word × Word) → State → State
  | [], s => s
  | (g, e) :: errs, s =>
    let s1 := appendReply (subErr 0x30#8 g e) { s with need := true }
    if s1.abort then s1 else appendErrors errs s1

/-- `WRITE_OP` on a decoded subframe of `size` bytes (45_dispatch R295). -/
def writeOp (reg : Word) (vals : List Value) (size : Nat) (s : State) : State :=
  let (s1, errs) := storeWrites reg vals s
  appendErrors errs { s1 with pp := s1.pp + size }

/-- The Values read from `g` on, up to `n` of them, until the store answers an error. -/
def readRun (s : State) (t : VType) : Nat → Word → List Value
  | 0, _ => []
  | n + 1, g =>
    match s.storeRead g t with
    | .ok v => v :: readRun s t n (g + 1#32)
    | .error _ => []

/-- `k` calls of `Store.Read` from `g` on are recorded. -/
def recordReads (t : VType) (g : Word) (k : Nat) (s : State) : State :=
  { s with storeLog := s.storeLog ++ readCalls t g k }

/-- The free bytes of the reply. -/
def State.replyRoom (s : State) : Nat := s.cfg.replyCap - s.replyBuf.length

/-- The next subframe of the reply to `n` registers from `g` on, and for how many of them it answers: a `READ_ERROR` for
one, or a run of values. A run is looked at only until it is longer than the reply's room, where it cannot fit whatever
follows. -/
def replyItem (s : State) (t : VType) (n : Nat) (g : Word) : Nat × List Byte :=
  match s.storeRead g t with
  | .error e => (1, subErr 0x31#8 g e)
  | .ok _ =>
    let vals := readRun s t (min n (s.replyRoom + 1)) g
    (vals.length, subRw 2 t g vals)

/-- The reply to `n` registers from `g` on (45_dispatch R296): maximal runs of values, and one `READ_ERROR` per failed
register, until `ABORT`. The reads of what is placed in the reply are recorded; how many more have been made when a
subframe does not fit is a free value (20_memory R68, U15; log 22). The first argument bounds the number of runs. -/
def readRuns (t : VType) : Nat → Nat → Word → State → State
  | 0, _, _, s => s
  | fuel + 1, n, g, s =>
    if n = 0 ∨ s.abort = true then s
    else
      let (k, sub) := replyItem s t n g
      let s1 := appendReply sub s
      if s1.abort then recordReads t g (min n (Config.surplusReads s.storeLog g t n s.replyRoom)) s1
      else readRuns t fuel (n - k) (g + BitVec.ofNat 32 k) (recordReads t g k s1)

/-- `READ_OP` on a decoded subframe of `size` bytes (45_dispatch R296). -/
def readOp (t : VType) (n : Nat) (reg : Word) (size : Nat) (s : State) : State :=
  readRuns t n n reg { s with need := true, pp := s.pp + size }

/-! ### The reply parser's records (44_subframe_codec R225 to R242) -/

/-- A `REPLY` subframe: one entry per value, then the index moves past it. -/
def replyRun (reg : Word) (vals : List Value) (size : Nat) (s : State) : State :=
  replyAdvance size { s with rpMap := rpInsertRun reg vals s.rpMap }

/-- A `WRITE_ERROR` or `READ_ERROR` subframe. -/
def replyError (reg e : Word) (size : Nat) (s : State) : State :=
  replyAdvance size { s with rpMap := rpInsert reg (.err e) s.rpMap }

/-! ### Tunnels (45_dispatch R333 to R335) -/

/-- The largest `m ≤ avail` for which a `TUNNEL_S2C` with `m` data bytes fits in `room` bytes (45_dispatch R335). -/
def fitS2c (ch : Word) (room : Nat) : Nat → Option Nat
  | 0 => if 1 + (venc ch).length + (vencNat 0).length + 0 ≤ room then some 0 else none
  | m + 1 =>
    if 1 + (venc ch).length + (vencNat (m + 1)).length + (m + 1) ≤ room then some (m + 1) else fitS2c ch room m

/-- `build_s2c(ch, lim)`; no limit is `none` (45_dispatch R335). -/
def buildS2c (ch : Word) (lim : Option Nat) (s : State) : State :=
  if s.sendOk = false then s
  else
    let q := s.txq ch.toNat
    let avail := match lim with
      | none => q.length
      | some m => min q.length m
    match fitS2c ch s.replyRoom avail with
    | none => { s.bump .missingSubframe with abort := true }
    | some m => appendReply (subS2c ch (q.take m)) (s.setTxq ch.toNat (q.drop m))

/-- `TUNNEL_C2S()` on a decoded subframe of `size` bytes (45_dispatch R333). -/
def tunnelData (ch : Word) (data : List Byte) (size : Nat) (s : State) : State :=
  if s.registered ch.toNat = false then unknownSub s
  else
    let a := min data.length (s.cfg.tunnelRxCap - (s.rxq ch.toNat).length)
    let s1 := { s with need := true, tunnelSeen := true, pp := s.pp + size }
    let s2 := s1.setRxq ch.toNat (s.rxq ch.toNat ++ data.take a)
    buildS2c ch none (if a < data.length then s2.bump .receiveOverrun else s2)

/-- `TUNNEL_POLL()` on a decoded subframe of `size` bytes (45_dispatch R334). -/
def tunnelPoll (ch m : Word) (size : Nat) (s : State) : State :=
  if s.registered ch.toNat = false then unknownSub s
  else buildS2c ch (some m.toNat) { s with need := true, tunnelSeen := true, pp := s.pp + size }

end Sys2Proof.Machine
end

