-- ==== Sys2Proof/Machine/Crc.lean ====
section
/-! DEFINITION. The CRC unit (41_crc): the parametric CRC-16, the frame check sequence, and the commands `CRC_INIT`,
`CRC_BYTE`, `CRC_READ`, `CRC_CHECK`. -/

namespace Sys2Proof.Machine

/-- One shift of the register (41_crc R141). -/
def crcShift (poly c : Half) : Half := if c.msb then (c <<< 1) ^^^ poly else c <<< 1

/-- `n` shifts. -/
def crcShifts (poly : Half) : Nat → Half → Half
  | 0, c => c
  | n + 1, c => crcShifts poly n (crcShift poly c)

/-- `crc_step(c, b)` (41_crc R141). -/
def crcStep (cfg : Config) (c : Half) (b : Byte) : Half :=
  crcShifts cfg.crcPoly 8 (c ^^^ (b.setWidth 16 <<< 8))

/-- The first `n` low bits of `v` moved to `acc` in reverse order. -/
def reverseLoop {w : Nat} : Nat → BitVec w → BitVec w → BitVec w
  | 0, _, acc => acc
  | n + 1, v, acc => reverseLoop n (v >>> 1) ((acc <<< 1) ||| (v &&& 1#w))

/-- `reverseN`: the bits in reverse order (41_crc R142). -/
def reverseBits {w : Nat} (v : BitVec w) : BitVec w := reverseLoop w v 0#w

/-- `refin` (41_crc R142). -/
def refin (cfg : Config) (b : Byte) : Byte := if cfg.crcRefin then reverseBits b else b

/-- `refout` (41_crc R142). -/
def refout (cfg : Config) (c : Half) : Half := if cfg.crcRefout then reverseBits c else c

/-- The register after a byte string, from `c` (41_crc R143). -/
def crcFold (cfg : Config) (c : Half) (s : List Byte) : Half := s.foldl (fun c b => crcStep cfg c (refin cfg b)) c

/-- `crc16(s)` (41_crc R143). -/
def crc16 (cfg : Config) (s : List Byte) : Half := refout cfg (crcFold cfg cfg.crcInit s) ^^^ cfg.crcXorout

/-- `fcs(h)` (41_crc R149). -/
def fcs (cfg : Config) (h : List Byte) : Half :=
  match cfg.crcSpan with
  | .preceding => crc16 cfg h
  | .withZeroField => crc16 cfg (h ++ [0#8, 0#8])

/-- The value `CRC_READ` returns and `CRC_VALUE` shows (41_crc R147, 10_state R33). -/
def State.crcValue (s : State) : Half := refout s.cfg s.crcReg ^^^ s.cfg.crcXorout

/-- `CRC_INIT` (R145). -/
def execCrcInit (s : State) : Out := .next { s.accept .host with crcReg := s.cfg.crcInit }

/-- `CRC_BYTE d` (R146). -/
def execCrcByte (d : Byte) (s : State) : Out :=
  .next { s.accept .host with crcReg := crcStep s.cfg s.crcReg (refin s.cfg d) }

/-- `CRC_READ` (R147). -/
def execCrcRead (s : State) : Out := .next { s.accept .host with result := .crc s.crcValue }

/-- `CRC_CHECK d` (R148). -/
def execCrcCheck (d : Half) (s : State) : Out :=
  .next { s.accept .host with result := .check (s.crcValue == d) }

end Sys2Proof.Machine
end

