-- ==== Sys2Proof/Machine/Csr.lean ====
section
/-! DEFINITION. The CSR commands (10_state R30 to R36). -/

namespace Sys2Proof.Machine

/-- The CSR at an index, as 32 bits; `none` for an unmapped index (10_state R35). -/
def State.csr (s : State) (i : Byte) : Option Word :=
  match i.toNat with
  | 0x00 => some (s.nodeId.setWidth 32)
  | 0x01 => some s.statusWord
  | 0x02 => some s.fault
  | 0x03 => some (s.crcValue.setWidth 32)
  | 0x10 => some (BitVec.ofNat 32 s.stats.wrongId)
  | 0x11 => some (BitVec.ofNat 32 s.stats.receiveOverrun)
  | 0x12 => some (BitVec.ofNat 32 s.stats.unknownSubframe)
  | 0x13 => some (BitVec.ofNat 32 s.stats.missingSubframe)
  | 0x14 => some (BitVec.ofNat 32 s.stats.malformedSubframe)
  | 0x15 => some (BitVec.ofNat 32 s.stats.writeError)
  | 0x16 => some (BitVec.ofNat 32 s.stats.checksumMismatch)
  | _ => none

/-- `CSR_READ i` (R36). A `STATUS` that cannot occur is a modelling error (93_implementation_defined U7). -/
def execCsrRead (i : Byte) (s : State) : Out :=
  if i = 0x01#8 ∧ s.statusLegal = false then .fault .statusEncoding
  else match s.csr i with
    | some v => .next { s.accept .host with result := .csr v }
    | none => .next ((s.accept .host).raise .badCsr)

/-- `CSR_WRITE i v` (R36): only `NODE_ID` is written. -/
def execCsrWrite (i : Byte) (v : Word) (s : State) : Out :=
  if i = 0x00#8 then .next { s.accept .host with nodeId := v.setWidth 8 }
  else .next ((s.accept .host).raise .badCsr)

end Sys2Proof.Machine
end

