-- ==== Sys2Proof/Machine/Request.lean ====
section
/-! DEFINITION. The request builder's commands (44_subframe_codec R246 to R251). -/

namespace Sys2Proof.Machine

/-- Append a subframe to `RQ_BUF`, or refuse it whole (R250). `done` is what else a successful append does. -/
def rqAppend (sub : List Byte) (done : State → State) (s : State) : State :=
  if s.cfg.rqCap < s.rqBuf.length + sub.length then s.raise .rqOverflow
  else done { s with rqBuf := s.rqBuf ++ sub }

/-- `RQ_CLEAR` (R246): the flag is kept. -/
def execRqClear (s : State) : Out := .next { s.accept .host with rqBuf := [] }

/-- `RQ_SET_RR b` (R247). -/
def execRqSetRr (b : Bool) (s : State) : Out := .next { s.accept .host with rqRr := b }

/-- `RQ_WRITE reg t values` (R248); a pattern of another width is `F_BAD_CMD` (30_encoding R87). -/
def execRqWrite (reg : Word) (t : VType) (values : List (List Byte)) (s : State) : Out :=
  if values.any (fun v => v.length != t.width) then .next ((s.accept .host).raise .badCmd)
  else .next (rqAppend (subRw 0 t reg (values.map (Value.read t))) id (s.accept .host))

/-- `RQ_READ reg t n` (R249): a request with a read asks for a reply. -/
def execRqRead (reg : Word) (t : VType) (n : Word) (s : State) : Out :=
  .next (rqAppend (subRead t reg n.toNat) (fun s => { s with rqRr := true }) (s.accept .host))

/-- `RQ_GET` (R251). -/
def execRqGet (s : State) : Out := .next { s.accept .host with result := .request s.rqBuf s.rqRr }

end Sys2Proof.Machine
end

