-- ==== Sys2Proof/Machine/Frame.lean ====
section
/-! DEFINITION. The frame codec (42_frame_codec R160 to R164) and the meaning of a `FRAME` that the scan has found
complete in the receive buffer: checksum test, then delivery or discard (43_frame_sync R188, R189; log 17). -/

namespace Sys2Proof.Machine

/-- The bytes of a frame before its CRC field (42_frame_codec R161). -/
def frameHead (f : Frame) : List Byte :=
  [0x54#8, 0xAB#8, srcByte f.src f.rr, f.dst] ++ vencNat f.payload.length ++ f.payload

/-- `encode_frame(f)` (42_frame_codec R161). -/
def encodeFrame (cfg : Config) (f : Frame) : List Byte := frameHead f ++ le16 (fcs cfg (frameHead f))

/-- `frame_len(f)` (42_frame_codec R162). -/
def frameLen (f : Frame) : Nat := 6 + (vencNat f.payload.length).length + f.payload.length

/-- `decode_frame(s)` on a byte string holding exactly one frame (42_frame_codec R163). -/
def decodeFrameString (cfg : Config) (s : List Byte) : Option Frame :=
  match decodeFrame cfg s with
  | .ok (.frame src rr dst _ payload crc, []) =>
    if fcs cfg (s.take (s.length - 2)) = crc then some ⟨src, rr, dst, payload⟩ else none
  | _ => none

/-- `deliver` and the discard after it, of a candidate of `total` bytes (43_frame_sync R189). -/
def deliver (src : BitVec 7) (rr : Bool) (dst : Byte) (len : Word) (payload : List Byte) (total : Nat) (s : State) :
    State :=
  let trunc := decide (s.rxCap < len.toNat)
  let kept := payload.take (min len.toNat s.rxCap)
  let s1 := { s with
    rxfSrc := src, rxfRr := rr, rxfDst := dst, rxfLen := len, rxfPayload := kept, rxfTrunc := trunc
    rxState := .idle, rxBuf := s.rxBuf.drop total }
  match s.rxOwner with
  | .server => { s1 with srvState := .frameReceived }
  | .host => s1.emit .rx (if trunc then .truncated else .ok) (.frame src rr dst len kept)

/-- `FRAME` (R80) during the scan: the candidate at the front of `RXBUF` is this frame. A mismatch is counted and two
bytes are discarded (R188); a match is delivered (R189). A truncated delivery to the dispatch unit is a modelling
error (45_dispatch R285, U14). Outside a scan nothing looks at the buffer. -/
def execFrame (src : BitVec 7) (rr : Bool) (dst : Byte) (len : VarU) (payload : List Byte) (crc : Half) (s : State) :
    Out :=
  if s.rxState ≠ .awaitFrame then .next s
  else
    let total := 4 + len.size + payload.length + 2
    if fcs s.cfg (s.rxBuf.take (total - 2)) ≠ crc then
      .next { s.bump .checksumMismatch with rxBuf := s.rxBuf.drop 2 }
    else if s.rxOwner = .server ∧ s.rxCap < len.value.toNat then .fault .serverCompletion
    else .next (deliver src rr dst len.value payload total s)

end Sys2Proof.Machine
end

