-- ==== Sys2Proof/Machine/Read.lean ====
section
/-! DEFINITION. The read subframes (45_dispatch R316 to R331). In the dispatch unit each is `READ_OP` (R296) at its type and
count; the reply parser ends at them (44_subframe_codec R244). -/

namespace Sys2Proof.Machine

/-- `READ.I8.N` (code 0x10, R316). -/
def execReadI8N (n r : VarU) (s : State) : Out :=
  .next (s.inParser (readOp .i8 n.value.toNat r.value (1 + n.size + r.size)) replyStop)

/-- `READ.I8.1` (code 0x11, R317). -/
def execReadI8_1 (r : VarU) (s : State) : Out :=
  .next (s.inParser (readOp .i8 1 r.value (1 + r.size)) replyStop)

/-- `READ.I8.2` (code 0x12, R318). -/
def execReadI8_2 (r : VarU) (s : State) : Out :=
  .next (s.inParser (readOp .i8 2 r.value (1 + r.size)) replyStop)

/-- `READ.I8.3` (code 0x13, R319). -/
def execReadI8_3 (r : VarU) (s : State) : Out :=
  .next (s.inParser (readOp .i8 3 r.value (1 + r.size)) replyStop)

/-- `READ.I16.N` (code 0x14, R320). -/
def execReadI16N (n r : VarU) (s : State) : Out :=
  .next (s.inParser (readOp .i16 n.value.toNat r.value (1 + n.size + r.size)) replyStop)

/-- `READ.I16.1` (code 0x15, R321). -/
def execReadI16_1 (r : VarU) (s : State) : Out :=
  .next (s.inParser (readOp .i16 1 r.value (1 + r.size)) replyStop)

/-- `READ.I16.2` (code 0x16, R322). -/
def execReadI16_2 (r : VarU) (s : State) : Out :=
  .next (s.inParser (readOp .i16 2 r.value (1 + r.size)) replyStop)

/-- `READ.I16.3` (code 0x17, R323). -/
def execReadI16_3 (r : VarU) (s : State) : Out :=
  .next (s.inParser (readOp .i16 3 r.value (1 + r.size)) replyStop)

/-- `READ.I32.N` (code 0x18, R324). -/
def execReadI32N (n r : VarU) (s : State) : Out :=
  .next (s.inParser (readOp .i32 n.value.toNat r.value (1 + n.size + r.size)) replyStop)

/-- `READ.I32.1` (code 0x19, R325). -/
def execReadI32_1 (r : VarU) (s : State) : Out :=
  .next (s.inParser (readOp .i32 1 r.value (1 + r.size)) replyStop)

/-- `READ.I32.2` (code 0x1A, R326). -/
def execReadI32_2 (r : VarU) (s : State) : Out :=
  .next (s.inParser (readOp .i32 2 r.value (1 + r.size)) replyStop)

/-- `READ.I32.3` (code 0x1B, R327). -/
def execReadI32_3 (r : VarU) (s : State) : Out :=
  .next (s.inParser (readOp .i32 3 r.value (1 + r.size)) replyStop)

/-- `READ.F32.N` (code 0x1C, R328). -/
def execReadF32N (n r : VarU) (s : State) : Out :=
  .next (s.inParser (readOp .f32 n.value.toNat r.value (1 + n.size + r.size)) replyStop)

/-- `READ.F32.1` (code 0x1D, R329). -/
def execReadF32_1 (r : VarU) (s : State) : Out :=
  .next (s.inParser (readOp .f32 1 r.value (1 + r.size)) replyStop)

/-- `READ.F32.2` (code 0x1E, R330). -/
def execReadF32_2 (r : VarU) (s : State) : Out :=
  .next (s.inParser (readOp .f32 2 r.value (1 + r.size)) replyStop)

/-- `READ.F32.3` (code 0x1F, R331). -/
def execReadF32_3 (r : VarU) (s : State) : Out :=
  .next (s.inParser (readOp .f32 3 r.value (1 + r.size)) replyStop)

end Sys2Proof.Machine
end

