-- ==== Sys2Proof/Machine/Reply.lean ====
section
/-! DEFINITION. The reply subframes and the error subframes (44_subframe_codec R225 to R242). The reply parser records them; the
dispatch unit does not know them (45_dispatch R291). -/

namespace Sys2Proof.Machine

/-- `REPLY.I8.N` (code 0x20, R225). -/
def execReplyI8N (n r : VarU) (vals : List (BitVec 8)) (s : State) : Out :=
  .next (s.inParser unknownSub (replyRun r.value (vals.map .i8) (1 + n.size + r.size + vals.length)))

/-- `REPLY.I8.1` (code 0x21, R226). -/
def execReplyI8_1 (r : VarU) (v0 : BitVec 8) (s : State) : Out :=
  .next (s.inParser unknownSub (replyRun r.value [.i8 v0] (1 + r.size + 1)))

/-- `REPLY.I8.2` (code 0x22, R227). -/
def execReplyI8_2 (r : VarU) (v0 v1 : BitVec 8) (s : State) : Out :=
  .next (s.inParser unknownSub (replyRun r.value [.i8 v0, .i8 v1] (1 + r.size + 2)))

/-- `REPLY.I8.3` (code 0x23, R228). -/
def execReplyI8_3 (r : VarU) (v0 v1 v2 : BitVec 8) (s : State) : Out :=
  .next (s.inParser unknownSub (replyRun r.value [.i8 v0, .i8 v1, .i8 v2] (1 + r.size + 3)))

/-- `REPLY.I16.N` (code 0x24, R229). -/
def execReplyI16N (n r : VarU) (vals : List (BitVec 16)) (s : State) : Out :=
  .next (s.inParser unknownSub (replyRun r.value (vals.map .i16) (1 + n.size + r.size + 2 * vals.length)))

/-- `REPLY.I16.1` (code 0x25, R230). -/
def execReplyI16_1 (r : VarU) (v0 : BitVec 16) (s : State) : Out :=
  .next (s.inParser unknownSub (replyRun r.value [.i16 v0] (1 + r.size + 2)))

/-- `REPLY.I16.2` (code 0x26, R231). -/
def execReplyI16_2 (r : VarU) (v0 v1 : BitVec 16) (s : State) : Out :=
  .next (s.inParser unknownSub (replyRun r.value [.i16 v0, .i16 v1] (1 + r.size + 4)))

/-- `REPLY.I16.3` (code 0x27, R232). -/
def execReplyI16_3 (r : VarU) (v0 v1 v2 : BitVec 16) (s : State) : Out :=
  .next (s.inParser unknownSub (replyRun r.value [.i16 v0, .i16 v1, .i16 v2] (1 + r.size + 6)))

/-- `REPLY.I32.N` (code 0x28, R233). -/
def execReplyI32N (n r : VarU) (vals : List (BitVec 32)) (s : State) : Out :=
  .next (s.inParser unknownSub (replyRun r.value (vals.map .i32) (1 + n.size + r.size + 4 * vals.length)))

/-- `REPLY.I32.1` (code 0x29, R234). -/
def execReplyI32_1 (r : VarU) (v0 : BitVec 32) (s : State) : Out :=
  .next (s.inParser unknownSub (replyRun r.value [.i32 v0] (1 + r.size + 4)))

/-- `REPLY.I32.2` (code 0x2A, R235). -/
def execReplyI32_2 (r : VarU) (v0 v1 : BitVec 32) (s : State) : Out :=
  .next (s.inParser unknownSub (replyRun r.value [.i32 v0, .i32 v1] (1 + r.size + 8)))

/-- `REPLY.I32.3` (code 0x2B, R236). -/
def execReplyI32_3 (r : VarU) (v0 v1 v2 : BitVec 32) (s : State) : Out :=
  .next (s.inParser unknownSub (replyRun r.value [.i32 v0, .i32 v1, .i32 v2] (1 + r.size + 12)))

/-- `REPLY.F32.N` (code 0x2C, R237). -/
def execReplyF32N (n r : VarU) (vals : List (BitVec 32)) (s : State) : Out :=
  .next (s.inParser unknownSub (replyRun r.value (vals.map .f32) (1 + n.size + r.size + 4 * vals.length)))

/-- `REPLY.F32.1` (code 0x2D, R238). -/
def execReplyF32_1 (r : VarU) (v0 : BitVec 32) (s : State) : Out :=
  .next (s.inParser unknownSub (replyRun r.value [.f32 v0] (1 + r.size + 4)))

/-- `REPLY.F32.2` (code 0x2E, R239). -/
def execReplyF32_2 (r : VarU) (v0 v1 : BitVec 32) (s : State) : Out :=
  .next (s.inParser unknownSub (replyRun r.value [.f32 v0, .f32 v1] (1 + r.size + 8)))

/-- `REPLY.F32.3` (code 0x2F, R240). -/
def execReplyF32_3 (r : VarU) (v0 v1 v2 : BitVec 32) (s : State) : Out :=
  .next (s.inParser unknownSub (replyRun r.value [.f32 v0, .f32 v1, .f32 v2] (1 + r.size + 12)))

/-- `WRITE_ERROR` (code 0x30, R241). -/
def execWriteError (r e : VarU) (s : State) : Out :=
  .next (s.inParser unknownSub (replyError r.value e.value (1 + r.size + e.size)))

/-- `READ_ERROR` (code 0x31, R242). -/
def execReadError (r e : VarU) (s : State) : Out :=
  .next (s.inParser unknownSub (replyError r.value e.value (1 + r.size + e.size)))

end Sys2Proof.Machine
end

