-- ==== Sys2Proof/Machine/Tunnel.lean ====
section
/-! DEFINITION. The tunnel subframes and the nop (45_dispatch R332 to R336), and the tunnel ports (R337, R338). -/

namespace Sys2Proof.Machine

/-- `TUNNEL_C2S` (code 0x40, R333). -/
def execTunnelC2s (ch len : VarU) (data : List Byte) (s : State) : Out :=
  .next (s.inParser (tunnelData ch.value data (1 + ch.size + len.size + data.length)) replyStop)

/-- `TUNNEL_S2C` (code 0x41): the dispatch unit does not know it (45_dispatch R291) and builds it itself (R335); the
reply parser ends at it (44_subframe_codec R243). -/
def execTunnelS2c (_ch _len : VarU) (_data : List Byte) (s : State) : Out := .next (s.inParser unknownSub replyStop)

/-- `TUNNEL_POLL` (code 0x42, R334). -/
def execTunnelPoll (ch m : VarU) (s : State) : Out :=
  .next (s.inParser (tunnelPoll ch.value m.value (1 + ch.size + m.size)) replyStop)

/-- `NOP` (code 0x50, R336): skipped by the dispatch unit; the reply parser ends at it (44_subframe_codec R244). -/
def execNop (s : State) : Out := .next (s.inParser (fun s => { s with pp := s.pp + 1 }) replyStop)

/-- `T_READ ch n` (event 0x88, R337): up to `n` bytes; enabled when there are any. -/
def execTRead (ch : BitVec 7) (n : Word) (s : State) : Out :=
  if s.registered ch.toNat = false then .next ((s.accept (.tunnelRead ch)).raise .badTunnel)
  else if s.rxq ch.toNat = [] then .next s.wait
  else .next { (s.accept (.tunnelRead ch)).setRxq ch.toNat ((s.rxq ch.toNat).drop n.toNat) with
    result := .bytes ((s.rxq ch.toNat).take n.toNat) }

/-- `T_WRITE ch d` (event 0x89, R338): as many bytes as fit; enabled when there is room. -/
def execTWrite (ch : BitVec 7) (data : List Byte) (s : State) : Out :=
  if s.registered ch.toNat = false then .next ((s.accept (.tunnelWrite ch)).raise .badTunnel)
  else if s.cfg.tunnelTxCap ≤ (s.txq ch.toNat).length then .next s.wait
  else
    let a := min data.length (s.cfg.tunnelTxCap - (s.txq ch.toNat).length)
    .next { (s.accept (.tunnelWrite ch)).setTxq ch.toNat (s.txq ch.toNat ++ data.take a) with result := .accepted a }

end Sys2Proof.Machine
end

