-- ==== Sys2Proof/Machine/Write.lean ====
section
/-! DEFINITION. The write subframes (45_dispatch R300 to R315). In the dispatch unit each is `WRITE_OP` (R295) at its type and
count; the reply parser ends at them (44_subframe_codec R244). -/

namespace Sys2Proof.Machine

/-- `WRITE.I8.N` (code 0x00, R300). -/
def execWriteI8N (n r : VarU) (vals : List (BitVec 8)) (s : State) : Out :=
  .next (s.inParser (writeOp r.value (vals.map .i8) (1 + n.size + r.size + vals.length)) replyStop)

/-- `WRITE.I8.1` (code 0x01, R301). -/
def execWriteI8_1 (r : VarU) (v0 : BitVec 8) (s : State) : Out :=
  .next (s.inParser (writeOp r.value [.i8 v0] (1 + r.size + 1)) replyStop)

/-- `WRITE.I8.2` (code 0x02, R302). -/
def execWriteI8_2 (r : VarU) (v0 v1 : BitVec 8) (s : State) : Out :=
  .next (s.inParser (writeOp r.value [.i8 v0, .i8 v1] (1 + r.size + 2)) replyStop)

/-- `WRITE.I8.3` (code 0x03, R303). -/
def execWriteI8_3 (r : VarU) (v0 v1 v2 : BitVec 8) (s : State) : Out :=
  .next (s.inParser (writeOp r.value [.i8 v0, .i8 v1, .i8 v2] (1 + r.size + 3)) replyStop)

/-- `WRITE.I16.N` (code 0x04, R304). -/
def execWriteI16N (n r : VarU) (vals : List (BitVec 16)) (s : State) : Out :=
  .next (s.inParser (writeOp r.value (vals.map .i16) (1 + n.size + r.size + 2 * vals.length)) replyStop)

/-- `WRITE.I16.1` (code 0x05, R305). -/
def execWriteI16_1 (r : VarU) (v0 : BitVec 16) (s : State) : Out :=
  .next (s.inParser (writeOp r.value [.i16 v0] (1 + r.size + 2)) replyStop)

/-- `WRITE.I16.2` (code 0x06, R306). -/
def execWriteI16_2 (r : VarU) (v0 v1 : BitVec 16) (s : State) : Out :=
  .next (s.inParser (writeOp r.value [.i16 v0, .i16 v1] (1 + r.size + 4)) replyStop)

/-- `WRITE.I16.3` (code 0x07, R307). -/
def execWriteI16_3 (r : VarU) (v0 v1 v2 : BitVec 16) (s : State) : Out :=
  .next (s.inParser (writeOp r.value [.i16 v0, .i16 v1, .i16 v2] (1 + r.size + 6)) replyStop)

/-- `WRITE.I32.N` (code 0x08, R308). -/
def execWriteI32N (n r : VarU) (vals : List (BitVec 32)) (s : State) : Out :=
  .next (s.inParser (writeOp r.value (vals.map .i32) (1 + n.size + r.size + 4 * vals.length)) replyStop)

/-- `WRITE.I32.1` (code 0x09, R309). -/
def execWriteI32_1 (r : VarU) (v0 : BitVec 32) (s : State) : Out :=
  .next (s.inParser (writeOp r.value [.i32 v0] (1 + r.size + 4)) replyStop)

/-- `WRITE.I32.2` (code 0x0A, R310). -/
def execWriteI32_2 (r : VarU) (v0 v1 : BitVec 32) (s : State) : Out :=
  .next (s.inParser (writeOp r.value [.i32 v0, .i32 v1] (1 + r.size + 8)) replyStop)

/-- `WRITE.I32.3` (code 0x0B, R311). -/
def execWriteI32_3 (r : VarU) (v0 v1 v2 : BitVec 32) (s : State) : Out :=
  .next (s.inParser (writeOp r.value [.i32 v0, .i32 v1, .i32 v2] (1 + r.size + 12)) replyStop)

/-- `WRITE.F32.N` (code 0x0C, R312). -/
def execWriteF32N (n r : VarU) (vals : List (BitVec 32)) (s : State) : Out :=
  .next (s.inParser (writeOp r.value (vals.map .f32) (1 + n.size + r.size + 4 * vals.length)) replyStop)

/-- `WRITE.F32.1` (code 0x0D, R313). -/
def execWriteF32_1 (r : VarU) (v0 : BitVec 32) (s : State) : Out :=
  .next (s.inParser (writeOp r.value [.f32 v0] (1 + r.size + 4)) replyStop)

/-- `WRITE.F32.2` (code 0x0E, R314). -/
def execWriteF32_2 (r : VarU) (v0 v1 : BitVec 32) (s : State) : Out :=
  .next (s.inParser (writeOp r.value [.f32 v0, .f32 v1] (1 + r.size + 8)) replyStop)

/-- `WRITE.F32.3` (code 0x0F, R315). -/
def execWriteF32_3 (r : VarU) (v0 v1 v2 : BitVec 32) (s : State) : Out :=
  .next (s.inParser (writeOp r.value [.f32 v0, .f32 v1, .f32 v2] (1 + r.size + 12)) replyStop)

end Sys2Proof.Machine
end

