-- ==== Sys2Proof/Machine/Inner.lean ====
section
/-! DEFINITION. The three loops that run inside a step: the scan of the receive buffer (43_frame_sync R181), the
dispatch unit's parse (45_dispatch R287, R288), and the reply parser's (44_subframe_codec R260). One pass of a loop
fetches the instruction at the loop's position (a frame or a subframe) and runs its meaning. -/

namespace Sys2Proof.Machine

/-- The meaning of an instruction that a loop can meet: a frame or a subframe. -/
def execInner (i : Instr) (s : State) : Out :=
  match i with
  | .frame src rr dst len payload crc => execFrame src rr dst len payload crc s
  | .writeI8N n r vals => execWriteI8N n r vals s
  | .writeI8_1 r v0 => execWriteI8_1 r v0 s
  | .writeI8_2 r v0 v1 => execWriteI8_2 r v0 v1 s
  | .writeI8_3 r v0 v1 v2 => execWriteI8_3 r v0 v1 v2 s
  | .writeI16N n r vals => execWriteI16N n r vals s
  | .writeI16_1 r v0 => execWriteI16_1 r v0 s
  | .writeI16_2 r v0 v1 => execWriteI16_2 r v0 v1 s
  | .writeI16_3 r v0 v1 v2 => execWriteI16_3 r v0 v1 v2 s
  | .writeI32N n r vals => execWriteI32N n r vals s
  | .writeI32_1 r v0 => execWriteI32_1 r v0 s
  | .writeI32_2 r v0 v1 => execWriteI32_2 r v0 v1 s
  | .writeI32_3 r v0 v1 v2 => execWriteI32_3 r v0 v1 v2 s
  | .writeF32N n r vals => execWriteF32N n r vals s
  | .writeF32_1 r v0 => execWriteF32_1 r v0 s
  | .writeF32_2 r v0 v1 => execWriteF32_2 r v0 v1 s
  | .writeF32_3 r v0 v1 v2 => execWriteF32_3 r v0 v1 v2 s
  | .readI8N n r => execReadI8N n r s
  | .readI8_1 r => execReadI8_1 r s
  | .readI8_2 r => execReadI8_2 r s
  | .readI8_3 r => execReadI8_3 r s
  | .readI16N n r => execReadI16N n r s
  | .readI16_1 r => execReadI16_1 r s
  | .readI16_2 r => execReadI16_2 r s
  | .readI16_3 r => execReadI16_3 r s
  | .readI32N n r => execReadI32N n r s
  | .readI32_1 r => execReadI32_1 r s
  | .readI32_2 r => execReadI32_2 r s
  | .readI32_3 r => execReadI32_3 r s
  | .readF32N n r => execReadF32N n r s
  | .readF32_1 r => execReadF32_1 r s
  | .readF32_2 r => execReadF32_2 r s
  | .readF32_3 r => execReadF32_3 r s
  | .replyI8N n r vals => execReplyI8N n r vals s
  | .replyI8_1 r v0 => execReplyI8_1 r v0 s
  | .replyI8_2 r v0 v1 => execReplyI8_2 r v0 v1 s
  | .replyI8_3 r v0 v1 v2 => execReplyI8_3 r v0 v1 v2 s
  | .replyI16N n r vals => execReplyI16N n r vals s
  | .replyI16_1 r v0 => execReplyI16_1 r v0 s
  | .replyI16_2 r v0 v1 => execReplyI16_2 r v0 v1 s
  | .replyI16_3 r v0 v1 v2 => execReplyI16_3 r v0 v1 v2 s
  | .replyI32N n r vals => execReplyI32N n r vals s
  | .replyI32_1 r v0 => execReplyI32_1 r v0 s
  | .replyI32_2 r v0 v1 => execReplyI32_2 r v0 v1 s
  | .replyI32_3 r v0 v1 v2 => execReplyI32_3 r v0 v1 v2 s
  | .replyF32N n r vals => execReplyF32N n r vals s
  | .replyF32_1 r v0 => execReplyF32_1 r v0 s
  | .replyF32_2 r v0 v1 => execReplyF32_2 r v0 v1 s
  | .replyF32_3 r v0 v1 v2 => execReplyF32_3 r v0 v1 v2 s
  | .writeError r e => execWriteError r e s
  | .readError r e => execReadError r e s
  | .tunnelC2s ch len data => execTunnelC2s ch len data s
  | .tunnelS2c ch len data => execTunnelS2c ch len data s
  | .tunnelPoll ch m => execTunnelPoll ch m s
  | .nop => execNop s
  | .crcInit | .crcByte _ | .crcRead | .crcCheck _ | .venc _ | .vdecClr | .vdecByte _ | .txFrames _ | .rxArm _
  | .rxCancel | .srvStart | .csrRead _ | .csrWrite _ _ | .rqClear | .rqSetRr _ | .rqWrite _ _ _ | .rqRead _ _ _
  | .rqGet | .rpParse _ | .rxByte _ | .rxTerr _ | .txTake | .txTerr _ | .rxTimeout | .tRead _ _ | .tWrite _ _
  | .srvDispatch => .next s

/-- What stands at a fetch position: an instruction to run in a state, or an outcome without one. -/
inductive Fetched where
  | run (i : Instr) (s : State)
  | done (o : Out)

/-- One pass of a loop. -/
def Fetched.inner : Fetched → Out
  | .run i s => execInner i s
  | .done o => o

/-! ### The scan (43_frame_sync R181 to R189) -/

/-- One pass of `scan()`: search the low byte and discard what stands before it (R182), then wait (`NEED_MORE`),
discard two bytes (R183, R186), or take the complete candidate. -/
def scanFetch (s : State) : Fetched :=
  let b := s.rxBuf.dropWhile (fun x => x != 0x54#8)
  match decodeFrame s.cfg b with
  | .ok (i, _) => .run i { s with rxBuf := b }
  | .error .short => .done (.next { s with rxBuf := b, rxState := .readingMore })
  | .error _ => .done (.next { s with rxBuf := b.drop 2 })

/-- The loop of `scan()`. Every pass that goes on discards at least two bytes. -/
def scanLoop : Nat → State → Out
  | 0, s => .next s
  | n + 1, s => if s.rxState ≠ .awaitFrame then .next s else ((scanFetch s).inner).andThen (scanLoop n)

/-- `scan()`; `NEED_MORE` leaves `RX_STATE = READING_MORE` (R190, R191), a delivery leaves `IDLE` (R189). -/
def scan (s : State) : Out := scanLoop (s.rxBuf.length + 1) s

/-- `arm(cap, owner)` (43_frame_sync R190). `s0` is the state in which the step's other writes have not been made: a
raised fault discards them (60_exceptions R365). -/
def arm (s0 : State) (cap : Nat) (owner : Owner) (s : State) : Out :=
  if s.rxState ≠ .idle then .next (s0.raise .doubleRead)
  else scan { s with rxCap := cap, rxOwner := owner, rxState := .awaitFrame }

/-! ### The dispatch unit's parse (45_dispatch R287 to R296) -/

/-- The codes the dispatch unit accepts (45_dispatch R288). -/
def dispatchAccepts (code : Byte) : Bool :=
  decide (code.toNat < 0x20) || code == 0x40#8 || code == 0x42#8 || code == 0x50#8

/-- The start register and the bytes after it of a write subframe whose header is complete (45_dispatch R295). -/
def writeHeader (c : Config) (code : Byte) (rest : List Byte) : Option (Word × List Byte) :=
  if code.extractLsb' 0 2 = 0#2 then
    match takeVar c rest with
    | none => none
    | some (_, rest) =>
      match takeVar c rest with
      | none => none
      | some (r, rest) => some (r.value, rest)
  else
    match takeVar c rest with
    | none => none
    | some (r, rest) => some (r.value, rest)

/-- A short write subframe when `PARTIAL_WRITE_ON_TRUNCATION` is set: its complete values are written, their errors are
appended by `append_reply`, which counts one that does not fit missing (45_dispatch R290), and then the subframe is counted
malformed and the parse aborts (R292, R295). Where both are counted, 60_exceptions R367's summary does not hold (log 20). -/
def partialWrite (code : Byte) (rest : List Byte) (s : State) : State :=
  match writeHeader s.cfg code rest with
  | none => malformedSub s
  | some (reg, rest) =>
    let t := VType.ofIndex (code.extractLsb' 2 2).toNat
    let r := storeWrites reg (takeVals t.width (Value.read t) (rest.length / t.width) rest) s
    malformedSub (appendErrors r.2 r.1)

/-- A short subframe (45_dispatch R292, R295). -/
def shortSub (code : Byte) (rest : List Byte) (s : State) : State :=
  if s.cfg.partialWrite && decide (code.toNat < 0x10) then partialWrite code rest s else malformedSub s

/-- One pass of the parse: the subframe at `PP` (45_dispatch R288). -/
def dispatchFetch (s : State) : Fetched :=
  match s.payload.drop s.pp with
  | [] => .done (.next s)
  | code :: rest =>
    match decodeSub s.cfg (code :: rest) with
    | .ok (i, _) => .run i s
    | .error .short =>
      if dispatchAccepts code then .done (.next (shortSub code rest s)) else .done (.next (unknownSub s))
    | .error _ => .done (.next (unknownSub s))

/-- The parse has ended (45_dispatch R287, R294). -/
def State.dispatchDone (s : State) : Bool := decide (s.payload.length ≤ s.pp) || s.abort || s.tunnelSeen

/-- The loop of `SRV_DISPATCH`. Every pass advances `PP` or sets `ABORT` (45_dispatch R288). -/
def dispatchLoop : Nat → State → Out
  | 0, s => .next s
  | n + 1, s => if s.dispatchDone then .next s else ((dispatchFetch s).inner).andThen (dispatchLoop n)

/-! ### The reply parser (44_subframe_codec R260) -/

/-- One pass: the subframe at index `i`. -/
def replyFetch (s : State) : Fetched :=
  match decodeSub s.cfg (s.rpPayload.drop s.rpPos) with
  | .ok (i, _) => .run i s
  | .error _ => .done (.next (replyStop s))

/-- The reply parse has ended. -/
def State.replyDone (s : State) : Bool := s.parser != .reply || decide (s.rpPayload.length ≤ s.rpPos)

/-- The loop of `RP_PARSE`. -/
def replyLoop : Nat → State → Out
  | 0, s => .next s
  | n + 1, s => if s.replyDone then .next s else ((replyFetch s).inner).andThen (replyLoop n)

/-- The end of `RP_PARSE`: the result is returned, the loop's locals are gone. -/
def replyConclude (s : State) : State :=
  { s with parser := .none, rpPayload := [], rpPos := 0, result := .reply s.rpMap s.rpUsed }

/-- `RP_PARSE payload` (R260). -/
def execRpParse (payload : List Byte) (s : State) : Out :=
  if s.cfg.maxPayload < payload.length then .next ((s.accept .host).raise .badCmd)
  else (replyLoop payload.length { s.accept .host with
      rpMap := [], rpUsed := 0#32, rpPayload := payload, rpPos := 0, parser := .reply }).andThen
    (fun t => .next (replyConclude t))

end Sys2Proof.Machine
end

