-- ==== Sys2Proof/Machine/Server.lean ====
section
/-! DEFINITION. The transmit path (42_frame_codec R165 to R168), the receive commands and events (43_frame_sync R190 to
R197), and the dispatch unit's lifecycle (45_dispatch R283 to R287, R293). They stand together because a completion
that belongs to the dispatch unit re-arms the read in the same step. -/

namespace Sys2Proof.Machine

/-! ### Transmit (42_frame_codec) -/

/-- The end of a transmission: the host gets the completion; the dispatch unit counts a transport error, becomes idle
and re-arms its read (42_frame_codec R167, R168; 45_dispatch R293). `s0` as in `arm`. -/
def completeTx (s0 : State) (owner : Owner) (st : Status) (sent : Nat) (s : State) : Out :=
  match owner with
  | .host => .next (s.emit .tx st (.sent sent))
  | .server =>
    let s1 := match st with
      | .transportError _ => s.bump .writeError
      | _ => s
    arm s0 s.cfg.maxPayload .server { s1 with srvState := .idle }

/-- A batch that does not fit (42_frame_codec R165). -/
def txOversize (cfg : Config) (frames : List Frame) : Bool :=
  frames.any (fun f => decide (cfg.maxPayload < f.payload.length)) ||
    decide (cfg.txBufSize < (frames.map frameLen).sum)

/-- `start_tx(frames, owner)` (42_frame_codec R165). Oversize on the reply path is a modelling error (U14). -/
def startTx (s0 : State) (frames : List Frame) (owner : Owner) (s : State) : Out :=
  if txOversize s.cfg frames then
    match owner with
    | .host => .next ((s.raise .txOversize).emit .tx .failed (.sent 0))
    | .server => .fault .replyPath
  else
    let b := frames.flatMap (encodeFrame s.cfg)
    let s1 := { s with txBuf := b, txPos := 0, txOwner := owner }
    if b = [] then completeTx s0 owner .ok 0 s1 else .next { s1 with txState := .busy }

/-- `TX_FRAMES frames` (42_frame_codec R166). -/
def execTxFrames (frames : List Frame) (s : State) : Out :=
  let s1 := s.accept .host
  if s.srvEn then .next (s1.raise .serverOwns)
  else if s.txState = .busy then .next (s1.raise .doubleWrite)
  else startTx s1 frames .host s1

/-- `TX_TAKE` (42_frame_codec R167), enabled while a transmission is pending. -/
def execTxTake (s : State) : Out :=
  if s.txState ≠ .busy then .next s.wait
  else
    let s1 := s.accept .transportTx
    match s.txBuf[s.txPos]? with
    | none => .fault .outOfBounds
    | some d =>
      let s2 := { s1 with txPos := s.txPos + 1, result := .byte d }
      if s.txPos + 1 = s.txBuf.length then
        completeTx s1 s.txOwner .ok s.txBuf.length { s2 with txState := .idle }
      else .next s2

/-- `TX_TERR e` (42_frame_codec R168), enabled while a transmission is pending. -/
def execTxTerr (e : Word) (s : State) : Out :=
  if s.txState ≠ .busy then .next s.wait
  else
    let s1 := s.accept .transportTx
    completeTx s1 s.txOwner (.transportError e) s.txPos { s1 with txState := .idle }

/-! ### Receive (43_frame_sync) -/

/-- `RX_ARM cap` (43_frame_sync R190); the checks in the order of 60_exceptions R366. -/
def execRxArm (cap : Word) (s : State) : Out :=
  let s1 := s.accept .host
  if s.srvEn then .next (s1.raise .serverOwns)
  else if s.cfg.maxPayload < cap.toNat then .next (s1.raise .badCmd)
  else arm s1 cap.toNat .host s1

/-- `RX_CANCEL` (43_frame_sync R195). A pending read of the dispatch unit's while it is disabled is a modelling error
(45_dispatch R285, U14). -/
def execRxCancel (s : State) : Out :=
  let s1 := s.accept .host
  if s.srvEn then .next (s1.raise .serverOwns)
  else if s.rxState ≠ .readingMore then .next s1
  else if s.rxOwner = .server then .fault .serverCompletion
  else .next ({ s1 with rxState := .idle }.emit .rx .canceled .none)

/-- `RX_BYTE d` (43_frame_sync R191), enabled while a read is outstanding. A full buffer is a modelling error (R192,
U13). -/
def execRxByte (d : Byte) (s : State) : Out :=
  if s.rxState ≠ .readingMore then .next s.wait
  else if s.cfg.rxBufSize ≤ s.rxBuf.length then .fault .rxOverflow
  else scan { s.accept .transportRx with rxBuf := s.rxBuf ++ [d], rxState := .awaitFrame }

/-- `RX_TERR e` (43_frame_sync R197), enabled while a read is outstanding; the dispatch unit re-arms (45_dispatch
R285). -/
def execRxTerr (e : Word) (s : State) : Out :=
  if s.rxState ≠ .readingMore then .next s.wait
  else
    let s1 := s.accept .transportRx
    match s.rxOwner with
    | .host => .next ({ s1 with rxState := .idle }.emit .rx (.transportError e) .none)
    | .server => arm s1 s.cfg.maxPayload .server { s1 with rxState := .idle }

/-- `RX_TIMEOUT` (43_frame_sync R196), enabled while a read of the host's is outstanding. -/
def execRxTimeout (s : State) : Out :=
  if s.rxState ≠ .readingMore ∨ s.rxOwner ≠ .host then .next s.wait
  else .next ({ s.accept .timer with rxState := .idle }.emit .rx .timedOut .none)

/-! ### The dispatch unit (45_dispatch) -/

/-- `SRV_START` (45_dispatch R283). -/
def execSrvStart (s : State) : Out :=
  let s1 := s.accept .host
  if s.srvEn then .next (s1.raise .srvRestart)
  else if s.rxState ≠ .idle then .next (s1.raise .doubleRead)
  else if s.txState = .busy then .next (s1.raise .doubleWrite)
  else arm s1 s.cfg.maxPayload .server { s1 with srvEn := true, srvState := .idle }

/-- `finish()` (45_dispatch R287). -/
def finish (s0 s : State) : Out := arm s0 s.cfg.maxPayload .server { s with srvState := .idle }

/-- The reply frame (45_dispatch R293). -/
def State.replyFrame (s : State) : Frame := ⟨s.nodeAddr, false, s.rxfSrc.setWidth 8, s.replyBuf⟩

/-- `send_reply()` (45_dispatch R293). A busy transmitter is a modelling error (R293, U14). -/
def sendReply (s0 s : State) : Out :=
  if s.txState = .busy then .fault .replyPath
  else startTx s0 [s.replyFrame] .server { s with srvState := .replyAssembled }

/-- What `SRV_DISPATCH` does after the parse (45_dispatch R287). -/
def dispatchConclude (s0 s : State) : Out :=
  let s1 := { s with parser := .none }
  if s.need && s.sendOk then sendReply s0 s1 else finish s0 s1

/-- The state in which the parse starts (45_dispatch R287). -/
def dispatchBegin (s : State) : State :=
  { s with pp := 0, replyBuf := [], need := s.rxfRr, abort := false, tunnelSeen := false, parser := .dispatch }

/-- `SRV_DISPATCH` (45_dispatch R287), enabled when a frame was received. A delivered frame of which bytes are missing
is a modelling error (U12). -/
def execSrvDispatch (s : State) : Out :=
  if s.srvState ≠ .frameReceived then .next s.wait
  else
    let s1 := s.accept .dispatch
    let s2 := { s1 with srvState := .dispatching }
    if s.isAddressed = false then finish s1 (s2.bump .wrongId)
    else if s.rxfPayload.length < s.rxfLen.toNat then .fault .outOfBounds
    else (dispatchLoop s.payload.length (dispatchBegin s2)).andThen (dispatchConclude s1)

end Sys2Proof.Machine
end

