-- ==== Sys2Proof/Machine/Varint.lean ====
section
/-! DEFINITION. The varint unit's commands (40_varint): `VENC`, `VDEC_CLR`, `VDEC_BYTE`. The functions `venc` and
`vdec` are in Decode.lean, the decoder's flags in Flags.lean. -/

namespace Sys2Proof.Machine

/-- `VENC v` (R125). -/
def execVenc (v : Word) (s : State) : Out := .next { s.accept .host with result := .encoded (Sys2Proof.venc v) }

/-- `VDEC_CLR` (R127). -/
def execVdecClr (s : State) : Out :=
  .next { s.accept .host with vdAcc := 0#32, vdCnt := 0, vdSt := .empty }

/-- The incremental decoder's registers in a state. -/
def State.vdRegs (s : State) : VdRegs := ⟨s.vdSt, s.vdAcc, s.vdCnt⟩

/-- The incremental decoder's registers written back, and returned as the command's result (R128). -/
def State.setVd (s : State) (r : VdRegs) : State :=
  { s with vdSt := r.st, vdAcc := r.acc, vdCnt := r.cnt, result := .varint r.st r.acc r.cnt }

/-- `VDEC_BYTE d` (R128). -/
def execVdecByte (d : Byte) (s : State) : Out := .next ((s.accept .host).setVd (vdFeed s.cfg s.vdRegs d))

end Sys2Proof.Machine
end

