-- ==== Sys2Proof/Machine/Dispatch.lean ====
section
/-! DEFINITION. The meaning of every instruction, one arm per constructor of `Instr`, one direct call an arm. -/

namespace Sys2Proof.Machine

def exec (i : Instr) (s : State) : Host.Outcome State Fault Refusal :=
  match i with
  | .frame src rr dst len payload crc => Sys2Proof.Machine.execFrame src rr dst len payload crc s
  | .writeI8N n r vals => Sys2Proof.Machine.execWriteI8N n r vals s
  | .writeI8_1 r v0 => Sys2Proof.Machine.execWriteI8_1 r v0 s
  | .writeI8_2 r v0 v1 => Sys2Proof.Machine.execWriteI8_2 r v0 v1 s
  | .writeI8_3 r v0 v1 v2 => Sys2Proof.Machine.execWriteI8_3 r v0 v1 v2 s
  | .writeI16N n r vals => Sys2Proof.Machine.execWriteI16N n r vals s
  | .writeI16_1 r v0 => Sys2Proof.Machine.execWriteI16_1 r v0 s
  | .writeI16_2 r v0 v1 => Sys2Proof.Machine.execWriteI16_2 r v0 v1 s
  | .writeI16_3 r v0 v1 v2 => Sys2Proof.Machine.execWriteI16_3 r v0 v1 v2 s
  | .writeI32N n r vals => Sys2Proof.Machine.execWriteI32N n r vals s
  | .writeI32_1 r v0 => Sys2Proof.Machine.execWriteI32_1 r v0 s
  | .writeI32_2 r v0 v1 => Sys2Proof.Machine.execWriteI32_2 r v0 v1 s
  | .writeI32_3 r v0 v1 v2 => Sys2Proof.Machine.execWriteI32_3 r v0 v1 v2 s
  | .writeF32N n r vals => Sys2Proof.Machine.execWriteF32N n r vals s
  | .writeF32_1 r v0 => Sys2Proof.Machine.execWriteF32_1 r v0 s
  | .writeF32_2 r v0 v1 => Sys2Proof.Machine.execWriteF32_2 r v0 v1 s
  | .writeF32_3 r v0 v1 v2 => Sys2Proof.Machine.execWriteF32_3 r v0 v1 v2 s
  | .readI8N n r => Sys2Proof.Machine.execReadI8N n r s
  | .readI8_1 r => Sys2Proof.Machine.execReadI8_1 r s
  | .readI8_2 r => Sys2Proof.Machine.execReadI8_2 r s
  | .readI8_3 r => Sys2Proof.Machine.execReadI8_3 r s
  | .readI16N n r => Sys2Proof.Machine.execReadI16N n r s
  | .readI16_1 r => Sys2Proof.Machine.execReadI16_1 r s
  | .readI16_2 r => Sys2Proof.Machine.execReadI16_2 r s
  | .readI16_3 r => Sys2Proof.Machine.execReadI16_3 r s
  | .readI32N n r => Sys2Proof.Machine.execReadI32N n r s
  | .readI32_1 r => Sys2Proof.Machine.execReadI32_1 r s
  | .readI32_2 r => Sys2Proof.Machine.execReadI32_2 r s
  | .readI32_3 r => Sys2Proof.Machine.execReadI32_3 r s
  | .readF32N n r => Sys2Proof.Machine.execReadF32N n r s
  | .readF32_1 r => Sys2Proof.Machine.execReadF32_1 r s
  | .readF32_2 r => Sys2Proof.Machine.execReadF32_2 r s
  | .readF32_3 r => Sys2Proof.Machine.execReadF32_3 r s
  | .replyI8N n r vals => Sys2Proof.Machine.execReplyI8N n r vals s
  | .replyI8_1 r v0 => Sys2Proof.Machine.execReplyI8_1 r v0 s
  | .replyI8_2 r v0 v1 => Sys2Proof.Machine.execReplyI8_2 r v0 v1 s
  | .replyI8_3 r v0 v1 v2 => Sys2Proof.Machine.execReplyI8_3 r v0 v1 v2 s
  | .replyI16N n r vals => Sys2Proof.Machine.execReplyI16N n r vals s
  | .replyI16_1 r v0 => Sys2Proof.Machine.execReplyI16_1 r v0 s
  | .replyI16_2 r v0 v1 => Sys2Proof.Machine.execReplyI16_2 r v0 v1 s
  | .replyI16_3 r v0 v1 v2 => Sys2Proof.Machine.execReplyI16_3 r v0 v1 v2 s
  | .replyI32N n r vals => Sys2Proof.Machine.execReplyI32N n r vals s
  | .replyI32_1 r v0 => Sys2Proof.Machine.execReplyI32_1 r v0 s
  | .replyI32_2 r v0 v1 => Sys2Proof.Machine.execReplyI32_2 r v0 v1 s
  | .replyI32_3 r v0 v1 v2 => Sys2Proof.Machine.execReplyI32_3 r v0 v1 v2 s
  | .replyF32N n r vals => Sys2Proof.Machine.execReplyF32N n r vals s
  | .replyF32_1 r v0 => Sys2Proof.Machine.execReplyF32_1 r v0 s
  | .replyF32_2 r v0 v1 => Sys2Proof.Machine.execReplyF32_2 r v0 v1 s
  | .replyF32_3 r v0 v1 v2 => Sys2Proof.Machine.execReplyF32_3 r v0 v1 v2 s
  | .writeError r e => Sys2Proof.Machine.execWriteError r e s
  | .readError r e => Sys2Proof.Machine.execReadError r e s
  | .tunnelC2s ch len data => Sys2Proof.Machine.execTunnelC2s ch len data s
  | .tunnelS2c ch len data => Sys2Proof.Machine.execTunnelS2c ch len data s
  | .tunnelPoll ch m => Sys2Proof.Machine.execTunnelPoll ch m s
  | .nop => Sys2Proof.Machine.execNop s
  | .crcInit => Sys2Proof.Machine.execCrcInit s
  | .crcByte d => Sys2Proof.Machine.execCrcByte d s
  | .crcRead => Sys2Proof.Machine.execCrcRead s
  | .crcCheck d => Sys2Proof.Machine.execCrcCheck d s
  | .venc v => Sys2Proof.Machine.execVenc v s
  | .vdecClr => Sys2Proof.Machine.execVdecClr s
  | .vdecByte d => Sys2Proof.Machine.execVdecByte d s
  | .txFrames frames => Sys2Proof.Machine.execTxFrames frames s
  | .rxArm cap => Sys2Proof.Machine.execRxArm cap s
  | .rxCancel => Sys2Proof.Machine.execRxCancel s
  | .srvStart => Sys2Proof.Machine.execSrvStart s
  | .csrRead idx => Sys2Proof.Machine.execCsrRead idx s
  | .csrWrite idx v => Sys2Proof.Machine.execCsrWrite idx v s
  | .rqClear => Sys2Proof.Machine.execRqClear s
  | .rqSetRr b => Sys2Proof.Machine.execRqSetRr b s
  | .rqWrite reg t values => Sys2Proof.Machine.execRqWrite reg t values s
  | .rqRead reg t n => Sys2Proof.Machine.execRqRead reg t n s
  | .rqGet => Sys2Proof.Machine.execRqGet s
  | .rpParse payload => Sys2Proof.Machine.execRpParse payload s
  | .rxByte d => Sys2Proof.Machine.execRxByte d s
  | .rxTerr e => Sys2Proof.Machine.execRxTerr e s
  | .txTake => Sys2Proof.Machine.execTxTake s
  | .txTerr e => Sys2Proof.Machine.execTxTerr e s
  | .rxTimeout => Sys2Proof.Machine.execRxTimeout s
  | .tRead ch n => Sys2Proof.Machine.execTRead ch n s
  | .tWrite ch data => Sys2Proof.Machine.execTWrite ch data s
  | .srvDispatch => Sys2Proof.Machine.execSrvDispatch s

end Sys2Proof.Machine
end

