-- ==== Sys2Proof/Machine/Fetch.lean ====
section
/-! DEFINITION. What the block does next: the pass of a loop in progress, or the move of the agent whose turn it is
(00_scope R3, R4). And how a word of the opcode table is placed so that the next step runs it (log 12). -/

namespace Sys2Proof.Machine

/-- The port at which a command or event is offered (30_encoding R85, R86); a frame or subframe has none. -/
def portOf (i : Instr) : Option Port :=
  match i with
  | .crcInit | .crcByte _ | .crcRead | .crcCheck _ | .venc _ | .vdecClr | .vdecByte _ | .txFrames _ | .rxArm _
  | .rxCancel | .srvStart | .csrRead _ | .csrWrite _ _ | .rqClear | .rqSetRr _ | .rqWrite _ _ _ | .rqRead _ _ _
  | .rqGet | .rpParse _ => some .host
  | .rxByte _ | .rxTerr _ => some .transportRx
  | .txTake | .txTerr _ => some .transportTx
  | .rxTimeout => some .timer
  | .tRead ch _ => some (.tunnelRead ch)
  | .tWrite ch _ => some (.tunnelWrite ch)
  | .srvDispatch => some .dispatch
  | _ => none

/-- What an agent offers at its port. The dispatch unit's step is internal: it needs no offer (45_dispatch R287). -/
def State.offerAt (s : State) (p : Port) : Option (List Byte) :=
  if p = .dispatch then some [0x90#8] else findOffer p s.offers

/-- The turn of the agent at a port: nothing offered, a command, or an event. Bytes at the host port that are no
command are `F_BAD_CMD` (30_encoding R87, log 9); bytes elsewhere that are no event of the port are refused (log 10). -/
def turnFetch (p : Port) (s : State) : Fetched :=
  match s.offerAt p with
  | none => .done (.next s.wait)
  | some bytes =>
    if p = .host then
      match exact (decodeCommand bytes) with
      | .ok i => .run i s
      | .error _ => .done (.next ((s.accept .host).raise .badCmd))
    else
      match exact (decodeEvent bytes) with
      | .ok i => if portOf i = some p then .run i s else .done (.refused .undefinedEvent)
      | .error _ => .done (.refused .undefinedEvent)

/-- What the next step runs. With no loop in progress it is the move of the schedule; with an empty schedule no agent
moves and only the outputs of the step before are gone. A loop in progress, which no state between the spec's steps
has, goes on by one pass (log 13). -/
def fetch (s : State) : Fetched :=
  match s.parser with
  | .dispatch => if s.dispatchDone then .done (dispatchConclude { s with parser := .none } s) else dispatchFetch s
  | .reply => if s.replyDone then .done (.next (replyConclude s)) else replyFetch s
  | .replyEnded => .done (.next (replyConclude s))
  | .none =>
    if s.rxState = .awaitFrame then scanFetch s
    else match s.sched with
      | [] => .done (.next s.wait)
      | .reset :: _ => .done (.next s.resetBlock)
      | .take p :: _ => turnFetch p s

/-! ### Placing a table word (log 12) -/

/-- A command or event offered at its port, and its agent's turn. -/
def State.offering (s : State) (p : Port) (bytes : List Byte) : State :=
  { s with offers := [⟨p, bytes⟩], sched := [.take p], parser := .none }

/-- The codes that stand in a reply (30_encoding R88). -/
def isReplyCode (code : Byte) : Bool :=
  decide (0x20 ≤ code.toNat ∧ code.toNat ≤ 0x31) || code == 0x41#8

/-- A table word's bytes placed where its language is read: a frame at the front of `RXBUF` during a scan; a reply
code as the payload of a reply parse; another subframe code as the inbound payload during a dispatch; a command or
event at its port. -/
def State.placeWord (s : State) (nbits w : Nat) : State :=
  let bytes := tableWordBytes nbits w
  match decodeWord nbits w with
  | (.frame, _) => { s with rxBuf := bytes, rxState := .awaitFrame, parser := .none }
  | (.subframe, _) =>
    if isReplyCode (rd8 bytes) then
      { s with parser := .reply, rpPayload := bytes, rpPos := 0 }
    else
      { s with
        parser := .dispatch, srvState := .dispatching, rxfPayload := bytes, rxfLen := BitVec.ofNat 32 bytes.length
        pp := 0, abort := false, tunnelSeen := false }
  | (.event, .ok (i, _)) => s.offering ((portOf i).getD .host) bytes
  | (.event, .error _) => s
  | (.command, _) => s.offering .host bytes

end Sys2Proof.Machine
end

