-- ==== Sys2Proof/Safety.lean ====
section
/-! DEFINITION. The terms in which claims about the block are made: a state between two steps, the invariant of every
state a run reaches, the languages of the instructions, and the operands of a subframe as the spec's rules name them.
Nothing here is part of the machine. -/

namespace Sys2Proof

/-! ### Languages (30_encoding) -/

/-- Which of the block's four encoded languages an instruction belongs to (30_encoding R104). -/
inductive Language where
  | frame
  | subframe
  | command
  | event
deriving DecidableEq, Repr

/-- The language of an instruction. -/
def Instr.language (i : Instr) : Language :=
  match i with
  | .frame _ _ _ _ _ _ => .frame
  | .crcInit | .crcByte _ | .crcRead | .crcCheck _ | .venc _ | .vdecClr | .vdecByte _ | .txFrames _ | .rxArm _
  | .rxCancel | .srvStart | .csrRead _ | .csrWrite _ _ | .rqClear | .rqSetRr _ | .rqWrite _ _ _ | .rqRead _ _ _
  | .rqGet | .rpParse _ => .command
  | .rxByte _ | .rxTerr _ | .txTake | .txTerr _ | .rxTimeout | .tRead _ _ | .tWrite _ _ | .srvDispatch => .event
  | _ => .subframe

/-- The decoder of a language. -/
def Language.decoder (c : Config) (l : Language) (s : List Byte) : Decoded :=
  match l with
  | .frame => decodeFrame c s
  | .subframe => decodeSub c s
  | .command => decodeCommand s
  | .event => decodeEvent s

/-- How many bytes an instruction takes: a frame by 30_encoding R80, a subframe by the layouts of R92 to R99, a command
or event by its argument layout (log 8). -/
def Instr.size (i : Instr) : Nat :=
  match i with
  | .frame _ _ _ len payload _ => 4 + len.size + payload.length + 2
  | .writeI8N n r vals => 1 + n.size + r.size + vals.length
  | .writeI8_1 r _ => 1 + r.size + 1
  | .writeI8_2 r _ _ => 1 + r.size + 2
  | .writeI8_3 r _ _ _ => 1 + r.size + 3
  | .writeI16N n r vals => 1 + n.size + r.size + 2 * vals.length
  | .writeI16_1 r _ => 1 + r.size + 2
  | .writeI16_2 r _ _ => 1 + r.size + 4
  | .writeI16_3 r _ _ _ => 1 + r.size + 6
  | .writeI32N n r vals => 1 + n.size + r.size + 4 * vals.length
  | .writeI32_1 r _ => 1 + r.size + 4
  | .writeI32_2 r _ _ => 1 + r.size + 8
  | .writeI32_3 r _ _ _ => 1 + r.size + 12
  | .writeF32N n r vals => 1 + n.size + r.size + 4 * vals.length
  | .writeF32_1 r _ => 1 + r.size + 4
  | .writeF32_2 r _ _ => 1 + r.size + 8
  | .writeF32_3 r _ _ _ => 1 + r.size + 12
  | .readI8N n r => 1 + n.size + r.size
  | .readI8_1 r => 1 + r.size
  | .readI8_2 r => 1 + r.size
  | .readI8_3 r => 1 + r.size
  | .readI16N n r => 1 + n.size + r.size
  | .readI16_1 r => 1 + r.size
  | .readI16_2 r => 1 + r.size
  | .readI16_3 r => 1 + r.size
  | .readI32N n r => 1 + n.size + r.size
  | .readI32_1 r => 1 + r.size
  | .readI32_2 r => 1 + r.size
  | .readI32_3 r => 1 + r.size
  | .readF32N n r => 1 + n.size + r.size
  | .readF32_1 r => 1 + r.size
  | .readF32_2 r => 1 + r.size
  | .readF32_3 r => 1 + r.size
  | .replyI8N n r vals => 1 + n.size + r.size + vals.length
  | .replyI8_1 r _ => 1 + r.size + 1
  | .replyI8_2 r _ _ => 1 + r.size + 2
  | .replyI8_3 r _ _ _ => 1 + r.size + 3
  | .replyI16N n r vals => 1 + n.size + r.size + 2 * vals.length
  | .replyI16_1 r _ => 1 + r.size + 2
  | .replyI16_2 r _ _ => 1 + r.size + 4
  | .replyI16_3 r _ _ _ => 1 + r.size + 6
  | .replyI32N n r vals => 1 + n.size + r.size + 4 * vals.length
  | .replyI32_1 r _ => 1 + r.size + 4
  | .replyI32_2 r _ _ => 1 + r.size + 8
  | .replyI32_3 r _ _ _ => 1 + r.size + 12
  | .replyF32N n r vals => 1 + n.size + r.size + 4 * vals.length
  | .replyF32_1 r _ => 1 + r.size + 4
  | .replyF32_2 r _ _ => 1 + r.size + 8
  | .replyF32_3 r _ _ _ => 1 + r.size + 12
  | .writeError r e => 1 + r.size + e.size
  | .readError r e => 1 + r.size + e.size
  | .tunnelC2s ch len data => 1 + ch.size + len.size + data.length
  | .tunnelS2c ch len data => 1 + ch.size + len.size + data.length
  | .tunnelPoll ch m => 1 + ch.size + m.size
  | .nop => 1
  | .crcInit => 1
  | .crcByte _ => 2
  | .crcRead => 1
  | .crcCheck _ => 3
  | .venc _ => 5
  | .vdecClr => 1
  | .vdecByte _ => 2
  | .txFrames frames => 5 + (frames.map (fun f => 6 + f.payload.length)).sum
  | .rxArm _ => 5
  | .rxCancel => 1
  | .srvStart => 1
  | .csrRead _ => 2
  | .csrWrite _ _ => 6
  | .rqClear => 1
  | .rqSetRr _ => 2
  | .rqWrite _ _ values => 10 + (values.map (fun v => 1 + v.length)).sum
  | .rqRead _ _ _ => 10
  | .rqGet => 1
  | .rpParse payload => 5 + payload.length
  | .rxByte _ => 2
  | .rxTerr _ => 5
  | .txTake => 1
  | .txTerr _ => 5
  | .rxTimeout => 1
  | .tRead _ _ => 6
  | .tWrite _ data => 6 + data.length
  | .srvDispatch => 1

/-- The register and the values of a write subframe (44_subframe_codec R224, `WRITE`). -/
def Instr.writeView : Instr → Option (Word × List Value)
  | .writeI8N _ r vals => some (r.value, vals.map .i8)
  | .writeI8_1 r v0 => some (r.value, [.i8 v0])
  | .writeI8_2 r v0 v1 => some (r.value, [.i8 v0, .i8 v1])
  | .writeI8_3 r v0 v1 v2 => some (r.value, [.i8 v0, .i8 v1, .i8 v2])
  | .writeI16N _ r vals => some (r.value, vals.map .i16)
  | .writeI16_1 r v0 => some (r.value, [.i16 v0])
  | .writeI16_2 r v0 v1 => some (r.value, [.i16 v0, .i16 v1])
  | .writeI16_3 r v0 v1 v2 => some (r.value, [.i16 v0, .i16 v1, .i16 v2])
  | .writeI32N _ r vals => some (r.value, vals.map .i32)
  | .writeI32_1 r v0 => some (r.value, [.i32 v0])
  | .writeI32_2 r v0 v1 => some (r.value, [.i32 v0, .i32 v1])
  | .writeI32_3 r v0 v1 v2 => some (r.value, [.i32 v0, .i32 v1, .i32 v2])
  | .writeF32N _ r vals => some (r.value, vals.map .f32)
  | .writeF32_1 r v0 => some (r.value, [.f32 v0])
  | .writeF32_2 r v0 v1 => some (r.value, [.f32 v0, .f32 v1])
  | .writeF32_3 r v0 v1 v2 => some (r.value, [.f32 v0, .f32 v1, .f32 v2])
  | _ => none

/-- The type, the number of registers and the first register of a read subframe (44_subframe_codec R224, `READ`). -/
def Instr.readView : Instr → Option (VType × Nat × Word)
  | .readI8N n r => some (.i8, n.value.toNat, r.value)
  | .readI8_1 r => some (.i8, 1, r.value)
  | .readI8_2 r => some (.i8, 2, r.value)
  | .readI8_3 r => some (.i8, 3, r.value)
  | .readI16N n r => some (.i16, n.value.toNat, r.value)
  | .readI16_1 r => some (.i16, 1, r.value)
  | .readI16_2 r => some (.i16, 2, r.value)
  | .readI16_3 r => some (.i16, 3, r.value)
  | .readI32N n r => some (.i32, n.value.toNat, r.value)
  | .readI32_1 r => some (.i32, 1, r.value)
  | .readI32_2 r => some (.i32, 2, r.value)
  | .readI32_3 r => some (.i32, 3, r.value)
  | .readF32N n r => some (.f32, n.value.toNat, r.value)
  | .readF32_1 r => some (.f32, 1, r.value)
  | .readF32_2 r => some (.f32, 2, r.value)
  | .readF32_3 r => some (.f32, 3, r.value)
  | _ => none

/-- The register and the values of a reply subframe (44_subframe_codec R224, `REPLY`). -/
def Instr.replyView : Instr → Option (Word × List Value)
  | .replyI8N _ r vals => some (r.value, vals.map .i8)
  | .replyI8_1 r v0 => some (r.value, [.i8 v0])
  | .replyI8_2 r v0 v1 => some (r.value, [.i8 v0, .i8 v1])
  | .replyI8_3 r v0 v1 v2 => some (r.value, [.i8 v0, .i8 v1, .i8 v2])
  | .replyI16N _ r vals => some (r.value, vals.map .i16)
  | .replyI16_1 r v0 => some (r.value, [.i16 v0])
  | .replyI16_2 r v0 v1 => some (r.value, [.i16 v0, .i16 v1])
  | .replyI16_3 r v0 v1 v2 => some (r.value, [.i16 v0, .i16 v1, .i16 v2])
  | .replyI32N _ r vals => some (r.value, vals.map .i32)
  | .replyI32_1 r v0 => some (r.value, [.i32 v0])
  | .replyI32_2 r v0 v1 => some (r.value, [.i32 v0, .i32 v1])
  | .replyI32_3 r v0 v1 v2 => some (r.value, [.i32 v0, .i32 v1, .i32 v2])
  | .replyF32N _ r vals => some (r.value, vals.map .f32)
  | .replyF32_1 r v0 => some (r.value, [.f32 v0])
  | .replyF32_2 r v0 v1 => some (r.value, [.f32 v0, .f32 v1])
  | .replyF32_3 r v0 v1 v2 => some (r.value, [.f32 v0, .f32 v1, .f32 v2])
  | _ => none

/-- The type of a Value (44_subframe_codec R220). -/
def Value.type : Value → VType
  | .i8 _ => .i8
  | .i16 _ => .i16
  | .i32 _ => .i32
  | .f32 _ => .f32

end Sys2Proof

namespace Sys2Proof.Machine

/-! ### Runs -/

/-- Instructions executed one after another, each in the state the one before it left. -/
def execAll : List Instr → State → Out
  | [], s => .next s
  | i :: is, s => Out.andThen (exec i s) (execAll is)

/-- `TX_TAKE` executed `n` times: the bytes returned, the completions output, and the state at the end. -/
def takeRun : Nat → State → Option (List Byte × List Completion × State)
  | 0, s => some ([], [], s)
  | n + 1, s =>
    match exec .txTake s with
    | .next t =>
      match t.result, takeRun n t with
      | .byte d, some (ds, cs, u) => some (d :: ds, t.completion.toList ++ cs, u)
      | _, _ => none
    | _ => none

/-- `RX_BYTE` executed for the bytes of a string while the read is pending: the state at the end and the bytes that
the transport still holds (43_frame_sync R191). -/
def feedRun : List Byte → State → Option (State × List Byte)
  | [], s => some (s, [])
  | d :: ds, s =>
    if s.rxState ≠ .readingMore then some (s, d :: ds)
    else match exec (.rxByte d) s with
      | .next t => feedRun ds t
      | _ => none

/-- Which fault a command or event raises: the first check that fails, in the order of 60_exceptions R366 (30_encoding
R87 for `RP_PARSE`); the conditions are those of the rules that 60_exceptions R362 names. -/
def raisedBy (i : Instr) (s : State) : Option FaultBit :=
  match i with
  | .rxArm cap =>
    if s.srvEn = true then some .serverOwns else if s.cfg.maxPayload < cap.toNat then some .badCmd
    else if s.rxState ≠ .idle then some .doubleRead else none
  | .rxCancel => if s.srvEn = true then some .serverOwns else none
  | .txFrames frames =>
    if s.srvEn = true then some .serverOwns else if s.txState = .busy then some .doubleWrite
    else if (∃ f ∈ frames, s.cfg.maxPayload < f.payload.length) ∨ s.cfg.txBufSize < (frames.map frameLen).sum then
      some .txOversize
    else none
  | .srvStart =>
    if s.srvEn = true then some .srvRestart else if s.rxState ≠ .idle then some .doubleRead
    else if s.txState = .busy then some .doubleWrite else none
  | .csrRead i =>
    if (0x04 ≤ i.toNat ∧ i.toNat ≤ 0x0F) ∨ 0x17 ≤ i.toNat then some .badCsr else none
  | .csrWrite i _ => if i ≠ 0x00#8 then some .badCsr else none
  | .rqWrite reg t values =>
    if ∃ v ∈ values, v.length ≠ t.width then some .badCmd
    else if s.cfg.rqCap < s.rqBuf.length + (subRw 0 t reg (values.map (Value.read t))).length then some .rqOverflow
    else none
  | .rqRead reg t n =>
    if s.cfg.rqCap < s.rqBuf.length + (subRead t reg n.toNat).length then some .rqOverflow else none
  | .rpParse payload => if s.cfg.maxPayload < payload.length then some .badCmd else none
  | .tRead ch _ => if ch ∉ s.cfg.tunnelIds then some .badTunnel else none
  | .tWrite ch _ => if ch ∉ s.cfg.tunnelIds then some .badTunnel else none
  | _ => none

/-- Subframes executed one after another in the dispatch unit, until the parse is aborted or a tunnel subframe was met
(45_dispatch R287, R294). -/
def dispatchAll : List Instr → State → Out
  | [], s => .next s
  | i :: is, s => if s.abort || s.tunnelSeen then .next s else Out.andThen (exec i s) (dispatchAll is)

/-! ### The scan as 43_frame_sync R181 writes it -/

/-- How a scan ends: the buffer and the number of checksum mismatches then, and for a delivery the length of the
candidate, its payload's length and the size of its length field. -/
inductive ScanEnd where
  | needMore (buf : List Byte) (mismatches : Nat)
  | delivered (total : Nat) (len : Word) (size : Nat) (buf : List Byte) (mismatches : Nat)
deriving DecidableEq, Repr

/-- `scan()` line by line (43_frame_sync R181); the first argument bounds the number of passes. -/
def scanText (c : Config) : Nat → List Byte → Nat → ScanEnd
  | 0, b, k => .needMore b k
  | fuel + 1, b, k =>
    match b.findIdx? (fun x => x == 0x54#8) with
    | none => .needMore [] k
    | some i =>
      let b := b.drop i
      if b.length < 2 then .needMore b k
      else if b[1]? ≠ some 0xAB#8 then scanText c fuel (b.drop 2) k
      else if b.length < 5 then .needMore b k
      else match vdec c (b.drop 4) with
        | none => .needMore b k
        | some v =>
          if c.maxPayload < v.value.toNat then scanText c fuel (b.drop 2) k
          else
            let total := 4 + v.size + v.value.toNat + 2
            if b.length < total then .needMore b k
            else if fcs c (b.take (total - 2)) ≠ rd16 (b.drop (total - 2)) then scanText c fuel (b.drop 2) (k + 1)
            else .delivered total v.value v.size b k

/-- The state after a scan that ended so: `CHECKSUM_MISMATCH` counted, then `READING_MORE`, or the frame copied out, its
bytes removed and the read completed (43_frame_sync R188 to R191). -/
def State.afterScan (s : State) : ScanEnd → State
  | .needMore b k =>
    { s with
      rxBuf := b, rxState := .readingMore
      stats := (fun st => Stats.bump s.cfg.statsWidth st .checksumMismatch)^[k] s.stats }
  | .delivered total len size b k =>
    let kept := (b.drop (4 + size)).take (min len.toNat s.rxCap)
    { s with
      rxBuf := b.drop total, rxState := .idle
      stats := (fun st => Stats.bump s.cfg.statsWidth st .checksumMismatch)^[k] s.stats
      rxfSrc := (rd8 (b.drop 2)).setWidth 7, rxfRr := (rd8 (b.drop 2)).msb, rxfDst := rd8 (b.drop 3)
      rxfLen := len, rxfPayload := kept, rxfTrunc := decide (s.rxCap < len.toNat)
      srvState := if s.rxOwner = .server then .frameReceived else s.srvState
      completion :=
        if s.rxOwner = .server then s.completion
        else some ⟨.rx, if s.rxCap < len.toNat then .truncated else .ok,
          .frame ((rd8 (b.drop 2)).setWidth 7) (rd8 (b.drop 2)).msb (rd8 (b.drop 3)) len kept⟩ }

/-- The state after the scan of the receive buffer (43_frame_sync R181). -/
def State.scanned (s : State) : State := s.afterScan (scanText s.cfg (s.rxBuf.length + 1) s.rxBuf 0)

/-- The state after `arm(cap, owner)` with no read pending (43_frame_sync R190). -/
def State.armed (s : State) (cap : Nat) (owner : Owner) : State :=
  { s with rxCap := cap, rxOwner := owner, rxState := .awaitFrame }.scanned

/-- The state after the dispatch unit became idle and armed its read again (45_dispatch R285, R287, R293). -/
def State.rearmed (s : State) : State := { s with srvState := .idle }.armed s.cfg.maxPayload .server

/-! ### The dispatch step (45_dispatch R287, R293) -/

/-- The state in which the parse of the inbound payload starts. -/
def State.parsing (s : State) : State :=
  { s.accept .dispatch with
    srvState := .dispatching, pp := 0, replyBuf := [], need := s.rxfRr, abort := false, tunnelSeen := false
    parser := .dispatch }

/-- The state after the parse of which a reply is sent: the reply frame is in the transmit buffer. -/
def State.replied (u : State) : State :=
  { u with
    parser := .none, srvState := .replyAssembled, txPos := 0, txOwner := .server, txState := .busy
    txBuf := encodeFrame u.cfg ⟨u.nodeId.setWidth 7, false, u.rxfSrc.setWidth 8, u.replyBuf⟩ }

/-- A counter counted once, or none. -/
def Stats.bumpOpt (w : Nat) (st : Stats) : Option Counter → Stats
  | none => st
  | some c => st.bump w c

/-- The last step output a completion of the host's on this port. -/
def State.completed (s : State) (p : CompletionPort) : Bool :=
  match s.completion with
  | some c => c.port == p
  | none => false

/-! ### What the rules of reads and writes name -/

/-- The store calls of a write subframe: `Store.Write(R + x mod 2^32, v_x)`, in register order (45_dispatch R295). -/
def writesOf (reg : Word) (vals : List Value) : List StoreWrite :=
  vals.zipIdx.map (fun p => ⟨reg + BitVec.ofNat 32 p.2, p.1⟩)

/-- The registers whose write the store rejected, with the codes, in order (`ERRS`, 45_dispatch R295). -/
def errorsOf (st : Store) : List StoreWrite → List StoreWrite → List (Word × Word)
  | _, [] => []
  | done, w :: ws =>
    if storeWriteAnswer st done w = 0#32 then errorsOf st (done ++ [w]) ws
    else (w.reg, storeWriteAnswer st done w) :: errorsOf st (done ++ [w]) ws

/-- All the answers `q_x` of a read subframe with their registers, read eagerly as 45_dispatch R296 writes them. -/
def answersOf (s : State) (t : VType) (n : Nat) (reg : Word) : List (Word × Except Word Value) :=
  (List.range n).map (fun x => (reg + BitVec.ofNat 32 x, s.storeRead (reg + BitVec.ofNat 32 x) t))

/-- A run of values that has ended. -/
def closeRun (t : VType) : Option (Word × List Value) → List (List Byte)
  | none => []
  | some (g, vs) => [subRw 2 t g vs]

/-- The reply subframes of a read: one `REPLY` for each maximal run of values, one `READ_ERROR` for each failed register,
in register order (45_dispatch R296). The second argument is the run in progress. -/
def readItems (t : VType) : Option (Word × List Value) → List (Word × Except Word Value) → List (List Byte)
  | run, [] => closeRun t run
  | run, (g, .error e) :: q => closeRun t run ++ subErr 0x31#8 g e :: readItems t none q
  | none, (g, .ok v) :: q => readItems t (some (g, [v])) q
  | some (h, vs), (_, .ok v) :: q => readItems t (some (h, vs ++ [v])) q

/-- `append_reply` of each subframe in order, while `ABORT` is clear (45_dispatch R295, R296). -/
def appendItems : List (List Byte) → State → State
  | [], s => s
  | b :: bs, s => if s.abort then s else appendItems bs (appendReply b s)

/-- What the reply parser records for a subframe it accepts: the entries in order (44_subframe_codec R260). -/
def recordsOf (i : Instr) : Option (List (Word × RpEntry)) :=
  match i.replyView, i with
  | some (reg, vals), _ => some ((writesOf reg vals).map (fun w => (w.reg, .val w.value)))
  | none, .writeError r e => some [(r.value, .err e.value)]
  | none, .readError r e => some [(r.value, .err e.value)]
  | none, _ => none

/-- A map with entries added in order. -/
def recordAll (m : List (Word × RpEntry)) (es : List (Word × RpEntry)) : List (Word × RpEntry) :=
  es.foldl (fun m e => rpInsert e.1 e.2 m) m

/-! ### The invariant -/

/-- Between two steps no scan and no parse is in progress (10_state R25, R28, R29). -/
abbrev State.settled (s : State) : Prop :=
  s.parser = .none ∧ s.rxState ≠ .awaitFrame ∧ s.srvState ≠ .dispatching

/-- The receive buffer holds the beginning of a candidate, or nothing, and the scan needs more bytes
(43_frame_sync R181). -/
abbrev State.rxWaiting (s : State) : Prop :=
  s.rxBuf.head?.getD 0x54#8 = 0x54#8 ∧ decodeFrame s.cfg s.rxBuf = .error .short

/-- The receive side: buffer bound and capacity (10_state R24, R25; 43_frame_sync R192). -/
abbrev State.rxOk (s : State) : Prop :=
  s.rxBuf.length ≤ s.cfg.maxPayload + 10 ∧ s.rxCap ≤ s.cfg.maxPayload ∧
    (s.rxState = .readingMore → s.rxWaiting)

/-- The delivered frame (10_state R26): all its bytes are there unless it was truncated. -/
abbrev State.rxfOk (s : State) : Prop :=
  s.rxfLen.toNat ≤ s.cfg.maxPayload ∧ s.rxfPayload.length ≤ s.rxfLen.toNat ∧
    (s.rxfTrunc = false → s.rxfPayload.length = s.rxfLen.toNat)

/-- The transmit side (10_state R27). -/
abbrev State.txOk (s : State) : Prop :=
  s.txBuf.length ≤ s.cfg.txBufSize ∧ s.txPos ≤ s.txBuf.length ∧ (s.txState = .busy → s.txPos < s.txBuf.length)

/-- Which unit owns the framer, and where the dispatch unit is in its cycle (45_dispatch R280, R284, R285, R293). -/
abbrev State.srvOk (s : State) : Prop :=
  if s.srvEn then
    (s.srvState = .idle ↔ s.rxState = .readingMore) ∧
      (s.srvState = .replyAssembled ↔ s.txState = .busy) ∧
      (s.rxState = .readingMore → s.rxOwner = .server ∧ s.rxCap = s.cfg.maxPayload) ∧
      (s.txState = .busy → s.txOwner = .server) ∧
      (s.srvState = .frameReceived → s.rxfTrunc = false)
  else
    s.srvState = .idle ∧ (s.rxState = .readingMore → s.rxOwner = .host) ∧ (s.txState = .busy → s.txOwner = .host)

/-- The incremental varuint decoder (10_state R23, 40_varint R128). -/
abbrev State.vdOk (s : State) : Prop :=
  (s.vdSt = .empty → s.vdCnt = 0 ∧ s.vdAcc = 0#32) ∧ (s.vdSt = .partialValue → 1 ≤ s.vdCnt ∧ s.vdCnt ≤ 4) ∧
    (s.vdSt = .done → 1 ≤ s.vdCnt ∧ s.vdCnt ≤ 5) ∧ (s.vdSt = .clamped → s.vdCnt = 5 ∧ s.vdAcc = 0xFFFFFFFF#32)

/-- Every counter is below `2 ^ STATS_WIDTH` (10_state R31). -/
abbrev State.statsOk (s : State) : Prop :=
  s.stats.wrongId < 2 ^ s.cfg.statsWidth ∧ s.stats.receiveOverrun < 2 ^ s.cfg.statsWidth ∧
    s.stats.unknownSubframe < 2 ^ s.cfg.statsWidth ∧ s.stats.missingSubframe < 2 ^ s.cfg.statsWidth ∧
    s.stats.malformedSubframe < 2 ^ s.cfg.statsWidth ∧ s.stats.writeError < 2 ^ s.cfg.statsWidth ∧
    s.stats.checksumMismatch < 2 ^ s.cfg.statsWidth

/-- The channels are those of `TUNNEL_IDS`, and no FIFO is longer than its capacity (10_state R37). -/
abbrev State.tunnelsOk (s : State) : Prop :=
  s.tunnels.map Tunnel.id = s.cfg.tunnelIds ∧
    ∀ t ∈ s.tunnels, t.rxq.length ≤ s.cfg.tunnelRxCap ∧ t.txq.length ≤ s.cfg.tunnelTxCap

/-- The other buffers and the parse pointer are within their sizes, `FAULT`'s reserved bits are 0, and `RP_MAP` is in
its sorted form (10_state R21, R29, R34, R38, R39). -/
abbrev State.boundsOk (s : State) : Prop :=
  s.pp ≤ s.cfg.maxPayload ∧ s.replyBuf.length ≤ s.cfg.replyCap ∧ s.rqBuf.length ≤ s.cfg.rqCap ∧
    s.fault.toNat < 2 ^ 9 ∧ rpSorted s.rpMap ∧ s.rpUsed.toNat ≤ s.cfg.maxPayload

/-- What holds of every state between the steps of a run. -/
abbrev State.Inv (s : State) : Prop :=
  s.cfg.wf ∧ s.settled ∧ s.rxOk ∧ s.rxfOk ∧ s.txOk ∧ s.srvOk ∧ s.vdOk ∧ s.statsOk ∧ s.tunnelsOk ∧ s.boundsOk

/-- A safe step: the block does not stop in a modelling error (93_implementation_defined part 2). -/
abbrev State.stepSafe (s : State) : Prop := ∀ f : Fault, step s ≠ .fault f

end Sys2Proof.Machine
end

