-- ==== Sys2Proof/Certificates/Slice0/Obligations.lean ====
section
/-! DEFINITION. The statements about the block, each a `Prop`. The docstring names the rule of spec/ it formalises. A
next state is written as a record update of the state before, or of that state after its agent's turn (`State.accept`,
log 6: the head of the schedule and the offer are gone, the outputs cleared), so every field not named is unchanged. -/

section

open Sys2Proof Sys2Proof.Machine

/-! ### Encodings -/

/-- Words written out from the spec's encodings: 44_subframe_codec R224, R243, R245, R249; 30_encoding R85, R86, R92 to
R100; 42_frame_codec R161. Ten subframe strings, a frame, a command and an event. -/
def Obligations.DecodeWords : Prop :=
  decodeSub .reference [0x07#8, 0x05#8, 0x01#8, 0x03#8, 0x03#8, 0x03#8, 0x05#8, 0x03#8] =
      .ok (.writeI16_3 ⟨5#32, 1⟩ 0x0301#16 0x0303#16 0x0305#16, []) ∧
    decodeSub .reference [0x07#8, 0x05#8, 0x01#8, 0x03#8] = .error .short ∧
    decodeSub .reference [0x33#8] = .error .unknownCode ∧
    decodeSub .reference [0x10#8, 0x05#8, 0x80#8, 0x02#8] = .ok (.readI8N ⟨5#32, 1⟩ ⟨256#32, 2⟩, []) ∧
    decodeSub .reference [0x29#8, 0x09#8, 0x06#8, 0x07#8, 0x08#8, 0x09#8] =
      .ok (.replyI32_1 ⟨9#32, 1⟩ 0x09080706#32, []) ∧
    decodeSub .reference [0x31#8, 0x20#8, 0xAC#8, 0x02#8] = .ok (.readError ⟨32#32, 1⟩ ⟨300#32, 2⟩, []) ∧
    decodeSub .reference [0x40#8, 0x09#8, 0x02#8, 0x68#8, 0x69#8] =
      .ok (.tunnelC2s ⟨9#32, 1⟩ ⟨2#32, 1⟩ [0x68#8, 0x69#8], []) ∧
    decodeSub .reference [0x41#8, 0x09#8, 0x00#8] = .ok (.tunnelS2c ⟨9#32, 1⟩ ⟨0#32, 1⟩ [], []) ∧
    decodeSub .reference [0x42#8, 0x09#8, 0x03#8] = .ok (.tunnelPoll ⟨9#32, 1⟩ ⟨3#32, 1⟩, []) ∧
    decodeSub .reference [0x50#8, 0x11#8] = .ok (.nop, [0x11#8]) ∧
    decodeFrame .reference [0x54#8, 0xAB#8, 0x80#8, 0x01#8, 0x00#8, 0x3A#8, 0x71#8] =
      .ok (.frame 0#7 true 1#8 ⟨0#32, 1⟩ [] 0x713A#16, []) ∧
    decodeCommand [0x01#8] = .ok (.crcInit, []) ∧
    decodeEvent [0x82#8] = .ok (.txTake, [])

/-- Decode and encode agree on every frame and every subframe, at every size of every varuint (30_encoding R80 to R99). -/
def Obligations.WireRoundTrip : Prop :=
  ∀ (c : Config) (i : Instr) (rest : List Byte), i.wf c → (i.language = .frame ∨ i.language = .subframe) →
    i.language.decoder c (encode i ++ rest) = .ok (i, rest)

/-- Decode and encode agree on every host command and every event (30_encoding R85, R86). The byte layout of the arguments
is the MODEL'S CHOICE (log 8). -/
def Obligations.PortRoundTrip : Prop :=
  ∀ (c : Config) (i : Instr) (rest : List Byte), i.wf c → (i.language = .command ∨ i.language = .event) →
    i.language.decoder c (encode i ++ rest) = .ok (i, rest)

/-- 40_varint R126: a varuint decodes to what was encoded, whatever follows it; a fifth byte is at most 0x0F. -/
def Obligations.VarintRoundTrip : Prop :=
  ∀ (c : Config) (v : Word),
    vdec c (venc v) = some ⟨v, (venc v).length⟩ ∧
      (∀ t : List Byte, vdec c (venc v ++ t) = some ⟨v, (venc v).length⟩) ∧
      (∀ b : Byte, (venc v)[4]? = some b → b.toNat ≤ 0x0F)

/-- 40_varint R122: the length law. -/
def Obligations.VarintLength : Prop :=
  ∀ v : Word,
    (v.toNat < 2 ^ 7 → (venc v).length = 1) ∧
      (2 ^ 7 ≤ v.toNat → v.toNat < 2 ^ 14 → (venc v).length = 2) ∧
      (2 ^ 14 ≤ v.toNat → v.toNat < 2 ^ 21 → (venc v).length = 3) ∧
      (2 ^ 21 ≤ v.toNat → v.toNat < 2 ^ 28 → (venc v).length = 4) ∧
      (2 ^ 28 ≤ v.toNat → (venc v).length = 5) ∧
      (venc v).length = max 1 ((v.toNat.size + 6) / 7)

/-- 40_varint R121, R124: every size of an encoding decodes, and no encoding is shorter than the encoder's. -/
def Obligations.VarintSizes : Prop :=
  ∀ c : Config,
    (∀ (v : VarU) (t : List Byte), v.wf → vdec c (v.bytes ++ t) = some v) ∧
      (∀ (s : List Byte) (v : VarU), vdec c s = some v → (venc v.value).length ≤ v.size)

/-- 42_frame_codec R164: a frame decodes to what was encoded; a string that decodes is what its frame encodes to whenever
its length varuint is minimal. -/
def Obligations.FrameRoundTrip : Prop :=
  ∀ c : Config, c.wf →
    (∀ f : Frame, f.payload.length ≤ c.maxPayload → decodeFrameString c (encodeFrame c f) = some f) ∧
      (∀ (s r : List Byte) (f : Frame) (v : Word), decodeFrameString c s = some f → s.drop 4 = venc v ++ r →
        encodeFrame c f = s)

/-- 42_frame_codec R162: the length of a frame, and the largest. -/
def Obligations.FrameLength : Prop :=
  ∀ (c : Config) (f : Frame), c.wf → f.payload.length ≤ c.maxPayload →
    frameLen f = 6 + (vencNat f.payload.length).length + f.payload.length ∧
      (encodeFrame c f).length = frameLen f ∧
      (∀ g : Frame, g.payload.length = c.maxPayload → frameLen f ≤ frameLen g) ∧
      frameLen f ≤ c.maxPayload + 11

/-- 41_crc R151: with an odd polynomial, one flipped bit in the covered bytes or in the CRC field fails the check, and a frame
with one flipped bit in its payload or CRC does not decode. -/
def Obligations.CrcDetectsFlips : Prop :=
  ∀ c : Config, c.crcPoly.getLsbD 0 = true →
    (∀ (h : List Byte) (j k : Nat), j < h.length → k < 8 →
        fcs c (h.modify j (fun b => b ^^^ (1#8 <<< k))) ≠ fcs c h) ∧
      (∀ (h : List Byte) (d : Half) (k : Nat), k < 16 → fcs c h = d → fcs c h ≠ d ^^^ (1#16 <<< k)) ∧
      (∀ (f : Frame) (j k : Nat), c.wf → f.payload.length ≤ c.maxPayload →
        4 + (vencNat f.payload.length).length ≤ j → j < (encodeFrame c f).length → k < 8 →
        decodeFrameString c ((encodeFrame c f).modify j (fun b => b ^^^ (1#8 <<< k))) = none)

/-- 44_subframe_codec R245, 30_encoding R102: what the block's encoders emit decodes to the subframe meant, with the canonical
count field. -/
def Obligations.BuiltSubframesDecode : Prop :=
  ∀ (c : Config) (reg e ch : Word) (n : Nat) (t : VType) (vals : List Value) (data rest : List Byte),
    (∀ v ∈ vals, v.type = t) → vals.length < 2 ^ 32 → n < 2 ^ 32 → data.length < 2 ^ 32 →
      (∃ i, decodeSub c (subRw 0 t reg vals ++ rest) = .ok (i, rest) ∧ i.writeView = some (reg, vals) ∧
        encode i = subRw 0 t reg vals) ∧
      (∃ i, decodeSub c (subRw 2 t reg vals ++ rest) = .ok (i, rest) ∧ i.replyView = some (reg, vals) ∧
        encode i = subRw 2 t reg vals) ∧
      (∃ i, decodeSub c (subRead t reg n ++ rest) = .ok (i, rest) ∧ i.readView = some (t, n, reg)) ∧
      decodeSub c (subErr 0x30#8 reg e ++ rest) = .ok (.writeError (.minimal reg) (.minimal e), rest) ∧
      decodeSub c (subErr 0x31#8 reg e ++ rest) = .ok (.readError (.minimal reg) (.minimal e), rest) ∧
      decodeSub c (subS2c ch data ++ rest) =
        .ok (.tunnelS2c (.minimal ch) (.minimal (BitVec.ofNat 32 data.length)) data, rest) ∧
      (rd8 (subRw 0 t reg vals)).toNat =
        4 * t.index + (if 1 ≤ vals.length ∧ vals.length ≤ 3 then vals.length else 0) ∧
      (rd8 (subRw 2 t reg vals)).toNat =
        0x20 + 4 * t.index + (if 1 ≤ vals.length ∧ vals.length ≤ 3 then vals.length else 0) ∧
      (rd8 (subRead t reg n)).toNat = 0x10 + 4 * t.index + (if 1 ≤ n ∧ n ≤ 3 then n else 0)

/-- 30_encoding R100, R101: a subframe of which bytes are missing at the end of the payload is short, wherever it is cut; the
unassigned codes, and no others, are unknown. -/
def Obligations.SubframeErrors : Prop :=
  (∀ (c : Config) (i : Instr) (k : Nat), i.wf c → i.language = .subframe → k < (encode i).length →
      decodeSub c ((encode i).take k) = .error .short) ∧
    (∀ (c : Config) (code : Byte) (s : List Byte),
      decodeSub c (code :: s) = .error .unknownCode ↔
        (0x32 ≤ code.toNat ∧ code.toNat ≤ 0x3F) ∨ (0x43 ≤ code.toNat ∧ code.toNat ≤ 0x4F) ∨ 0x51 ≤ code.toNat)

/-! ### Steps -/

/-- A step runs the decoded instruction: the command or event at the port whose agent has the turn; the dispatch unit's
internal step (clauses 1 to 3; the turns are the MODEL'S CHOICE, log 6); and inside a loop the subframe at `PP` or at the
reply parser's index, or the candidate at the front of the receive buffer after the header search (43_frame_sync R182;
clauses 4 to 6; that a state in the middle of a loop runs one pass a step is the MODEL'S CHOICE, log 13). -/
def Obligations.StepRunsFetched : Prop :=
  ∀ (s : State) (i : Instr),
    (∀ (r : List Move) (bytes : List Byte), s.parser = .none → s.rxState ≠ .awaitFrame →
        s.sched = .take .host :: r → findOffer .host s.offers = some bytes →
        exact (decodeCommand bytes) = .ok i → step s = exec i s) ∧
      (∀ (r : List Move) (p : Port) (bytes : List Byte), s.parser = .none → s.rxState ≠ .awaitFrame →
        s.sched = .take p :: r → p ≠ .host → p ≠ .dispatch → findOffer p s.offers = some bytes →
        exact (decodeEvent bytes) = .ok i → portOf i = some p → step s = exec i s) ∧
      (∀ r : List Move, s.parser = .none → s.rxState ≠ .awaitFrame → s.sched = .take .dispatch :: r →
        step s = exec .srvDispatch s) ∧
      (∀ rest : List Byte, s.parser = .dispatch → s.pp < s.payload.length → s.abort = false → s.tunnelSeen = false →
        decodeSub s.cfg (s.payload.drop s.pp) = .ok (i, rest) → step s = exec i s) ∧
      (∀ rest : List Byte, s.parser = .reply → s.rpPos < s.rpPayload.length →
        decodeSub s.cfg (s.rpPayload.drop s.rpPos) = .ok (i, rest) → step s = exec i s) ∧
      (∀ b rest : List Byte, s.parser = .none → s.rxState = .awaitFrame →
        b = s.rxBuf.dropWhile (fun x => x != 0x54#8) → decodeFrame s.cfg b = .ok (i, rest) →
        step s = exec i { s with rxBuf := b })

/-- A turn without an instruction. An undefined host command raises `F_BAD_CMD` (30_encoding R87). THE MODEL'S CHOICES: an
empty schedule and an agent with nothing to offer wait (log 6, log 7); bytes that do not make exactly one command count as
an undefined command (log 9); bytes that are no event of the port are refused (log 10). -/
def Obligations.TurnsWithoutInstruction : Prop :=
  ∀ s : State, s.settled →
    (s.sched = [] → step s = .next s.wait) ∧
      (∀ (r : List Move) (p : Port), s.sched = .take p :: r → p ≠ .dispatch → findOffer p s.offers = none →
        step s = .next s.wait) ∧
      (∀ (r : List Move) (bytes : List Byte), s.sched = .take .host :: r → findOffer .host s.offers = some bytes →
        (∀ i, exact (decodeCommand bytes) ≠ .ok i) → step s = .next ((s.accept .host).raise .badCmd)) ∧
      (∀ (r : List Move) (p : Port) (bytes : List Byte), s.sched = .take p :: r → p ≠ .host → p ≠ .dispatch →
        findOffer p s.offers = some bytes → (∀ i, exact (decodeEvent bytes) = .ok i → portOf i ≠ some p) →
        step s = .refused .undefinedEvent)

/-- 70_reset R390: the reset value of every state element, at any parameters; RESET gives them at any step boundary, emits no
completion and touches neither the parameters nor the external store. THE MODEL'S CHOICES: `State.reset` stands at the
reference parameters (log 2); RESET keeps what the agents offer and the rest of the schedule (log 23); `CRC_VALUE` after reset
is given as 10_state R33 defines it, after output reflection, and without reflection it is the table's value (log 25). -/
def Obligations.ResetValues : Prop :=
  ∀ c : Config,
    ((State.resetWith c).crcReg = c.crcInit ∧ (State.resetWith c).vdAcc = 0#32 ∧ (State.resetWith c).vdCnt = 0 ∧
        (State.resetWith c).vdSt = .empty ∧ (State.resetWith c).rxBuf.length = 0 ∧
        (State.resetWith c).rxState = .idle ∧ (State.resetWith c).rxCap = 0 ∧ (State.resetWith c).rxOwner = .host ∧
        (State.resetWith c).rxfSrc = 0#7 ∧ (State.resetWith c).rxfRr = false ∧ (State.resetWith c).rxfDst = 0#8 ∧
        (State.resetWith c).rxfLen = 0#32 ∧ (State.resetWith c).rxfTrunc = false ∧
        (State.resetWith c).txState = .idle ∧ (State.resetWith c).txBuf.length = 0 ∧
        (State.resetWith c).txPos = 0 ∧ (State.resetWith c).txOwner = .host ∧ (State.resetWith c).srvEn = false ∧
        (State.resetWith c).srvState = .idle ∧ (State.resetWith c).pp = 0 ∧
        (State.resetWith c).replyBuf.length = 0 ∧ (State.resetWith c).need = false ∧
        (State.resetWith c).abort = false ∧ (State.resetWith c).tunnelSeen = false) ∧
      ((State.resetWith c).nodeId = c.nodeIdReset ∧ (∀ k : Counter, (State.resetWith c).stats.get k = 0) ∧
        (State.resetWith c).statusWord = 0#32 ∧
        (State.resetWith c).crcValue = refout c c.crcInit ^^^ c.crcXorout ∧
        (c.crcRefout = false → (State.resetWith c).crcValue = c.crcInit ^^^ c.crcXorout) ∧
        (State.resetWith c).fault = 0#32 ∧
        (State.resetWith c).tunnels = c.tunnelIds.map (fun id => ⟨id, [], []⟩) ∧
        (State.resetWith c).rqBuf.length = 0 ∧ (State.resetWith c).rqRr = false ∧
        (State.resetWith c).rpMap = [] ∧ (State.resetWith c).rpUsed = 0#32 ∧
        (State.resetWith c).completion = none) ∧
      State.reset = State.resetWith .reference ∧
      (∀ (s : State) (r : List Move), s.settled → s.sched = .reset :: r →
        step s = .next { State.resetWith s.cfg with storeLog := s.storeLog, offers := s.offers, sched := r })

/-- The invariant holds after reset, at any parameters that meet 00_scope R1. -/
def Obligations.ResetInv : Prop :=
  (∀ c : Config, c.wf → (State.resetWith c).Inv) ∧ State.reset.Inv

/-- Every step keeps the invariant: the buffers within their bounds, the receiver waiting on the beginning of a candidate, the
dispatch unit's states as 10_state R25 to R28 and 45_dispatch R280 to R293 have them, the decoder's registers in step, the
counters, FIFOs and reserved bits in range, and no loop in progress between two steps. -/
def Obligations.InvStep : Prop :=
  ∀ s t : State, s.Inv → step s = .next t → t.Inv

/-- From a state that meets the invariant no step is one of 93_implementation_defined part 2's modelling errors: it answers a
next state, or it refuses bytes that are no event (log 10). -/
def Obligations.NoModellingFault : Prop :=
  ∀ s : State, s.Inv → (∃ t, step s = .next t) ∨ step s = .refused .undefinedEvent

/-- 43_frame_sync R192: the receive buffer's bound while a read waits, from reset and kept by every step. -/
def Obligations.ReceiveBufferBound : Prop :=
  (∀ c : Config, c.maxPayload + 10 < c.rxBufSize ∧ (State.resetWith c).rxBuf.length ≤ c.maxPayload + 10) ∧
    (∀ s t : State, s.cfg.wf → s.settled →
      (s.rxState = .readingMore → s.rxBuf.length ≤ s.cfg.maxPayload + 10) → step s = .next t →
      t.rxState = .readingMore → t.rxBuf.length ≤ t.cfg.maxPayload + 10)

/-- 45_dispatch R281, 70_reset R390: the store is called, to write or to read, only inside `SRV_DISPATCH` on a frame addressed
to the block, calls are only added to the record, and no step changes the parameters. -/
def Obligations.StoreCallsOnlyInDispatch : Prop :=
  ∀ s t : State, s.settled → step s = .next t →
    t.cfg = s.cfg ∧ s.storeLog <+: t.storeLog ∧
      (t.storeLog ≠ s.storeLog →
        s.sched.head? = some (.take .dispatch) ∧ s.srvState = .frameReceived ∧
          (s.rxfDst = s.nodeId &&& 0x7F#8 ∨ s.rxfDst = 0x7F#8))

/-- 70_reset R391: `FAULT`, the counters and `SRV_EN` are cleared only by reset. A step that is no RESET keeps every set bit of
`FAULT` and a set `SRV_EN`, and moves each counter forward modulo its width by what the step counted: at most one, or for
`CHECKSUM_MISMATCH` at most one for each byte the scan had. RESET clears them. -/
def Obligations.StickyState : Prop :=
  (∀ s t : State, s.Inv → step s = .next t → s.sched.head? ≠ some .reset →
    t.fault &&& s.fault = s.fault ∧ (s.srvEn = true → t.srvEn = true) ∧
      (∀ c : Counter, ∃ k, k ≤ (if c = .checksumMismatch then s.rxBuf.length + 1 else 1) ∧
        t.stats.get c = (s.stats.get c + k) % 2 ^ s.cfg.statsWidth)) ∧
    (∀ s t : State, s.Inv → step s = .next t → s.sched.head? = some .reset →
      t.fault = 0#32 ∧ t.srvEn = false ∧ ∀ c : Counter, t.stats.get c = 0)

/-- 10_state R22, R30, R38, R39; 70_reset R398: the CRC register, the incremental decoder, `NODE_ID`, the request builder and
the reply map change only in a host command or RESET; and a host command moves no tunnel byte and calls no store. -/
def Obligations.HostUnitsPrivate : Prop :=
  ∀ s t : State, s.settled → step s = .next t → s.sched.head? ≠ some .reset →
    (s.sched.head? ≠ some (.take .host) →
        t.crcReg = s.crcReg ∧ t.vdAcc = s.vdAcc ∧ t.vdCnt = s.vdCnt ∧ t.vdSt = s.vdSt ∧ t.nodeId = s.nodeId ∧
          t.rqBuf = s.rqBuf ∧ t.rqRr = s.rqRr ∧ t.rpMap = s.rpMap ∧ t.rpUsed = s.rpUsed) ∧
      (s.sched.head? = some (.take .host) → t.tunnels = s.tunnels ∧ t.storeLog = s.storeLog)

/-- 30_encoding R87, 93_implementation_defined U11: an event that is not enabled is not taken. That its agent's turn passes is
the MODEL'S CHOICE (log 7). -/
def Obligations.NotEnabledWaits : Prop :=
  ∀ s : State,
    (s.rxState ≠ .readingMore → ∀ (d : Byte) (e : Word),
        exec (.rxByte d) s = .next s.wait ∧ exec (.rxTerr e) s = .next s.wait ∧ exec .rxTimeout s = .next s.wait) ∧
      (s.rxOwner = .server → exec .rxTimeout s = .next s.wait) ∧
      (s.txState = .idle → exec .txTake s = .next s.wait ∧ ∀ e : Word, exec (.txTerr e) s = .next s.wait) ∧
      (s.srvState ≠ .frameReceived → exec .srvDispatch s = .next s.wait) ∧
      (∀ ch : BitVec 7, ch ∈ s.cfg.tunnelIds → s.rxq ch.toNat = [] →
        ∀ n : Word, exec (.tRead ch n) s = .next s.wait) ∧
      (∀ ch : BitVec 7, ch ∈ s.cfg.tunnelIds → s.cfg.tunnelTxCap ≤ (s.txq ch.toNat).length →
        ∀ d : List Byte, exec (.tWrite ch d) s = .next s.wait)

/-- 60_exceptions R362, R365, R366, R372: a command or event that fails one of its checks raises the fault of the first that
fails and changes nothing else, whether the bit was set before or not: the outcome is the state after its own agent's turn
with that bit set, and for `F_TX_OVERSIZE` the completion `FAILED`. From a state that meets the invariant, one that passes
its checks leaves `FAULT` alone; and from any state at all, whatever changes `FAULT` has only that effect. -/
def Obligations.FaultsArePrecise : Prop :=
  ∀ (i : Instr) (s : State),
    (∀ b : FaultBit, raisedBy i s = some b →
      ∃ p : Port, portOf i = some p ∧
        exec i s = .next (if b = .txOversize then ((s.accept p).raise b).emit .tx .failed (.sent 0)
          else (s.accept p).raise b)) ∧
      (∀ t : State, s.Inv → raisedBy i s = none → exec i s = .next t → t.fault = s.fault) ∧
      (∀ t : State, exec i s = .next t → t.fault ≠ s.fault →
        ∃ (p : Port) (b : FaultBit), portOf i = some p ∧
          t = if b = .txOversize then ((s.accept p).raise b).emit .tx .failed (.sent 0) else (s.accept p).raise b)

/-- 60_exceptions R363: nothing received from the transport can raise a fault; only host commands and tunnel-port events
can. -/
def Obligations.WireCannotFault : Prop :=
  ∀ s t : State, s.Inv → step s = .next t → s.sched.head? ≠ some .reset → t.fault ≠ s.fault →
    s.sched.head? = some (.take .host) ∨
      (∃ ch : BitVec 7, s.sched.head? = some (.take (.tunnelRead ch)) ∨ s.sched.head? = some (.take (.tunnelWrite ch)))

/-- 45_dispatch R284: while the dispatch unit runs, the framer's host commands fault, the timeout is not enabled, and no
completion is output to the host. That the timer's turn passes then and the outputs clear (`State.wait`) is the MODEL'S
CHOICE (log 7; 30_encoding R87). -/
def Obligations.ServerOwnsPort : Prop :=
  (∀ s : State, s.srvEn = true →
    (∀ cap : Word, exec (.rxArm cap) s = .next ((s.accept .host).raise .serverOwns)) ∧
      exec .rxCancel s = .next ((s.accept .host).raise .serverOwns) ∧
      (∀ frames : List Frame, exec (.txFrames frames) s = .next ((s.accept .host).raise .serverOwns))) ∧
    (∀ s : State, s.Inv → s.srvEn = true →
      exec .rxTimeout s = .next s.wait ∧ ∀ t : State, step s = .next t → t.completion = none)

/-- 43_frame_sync R198, 42_frame_codec R169: one completion per read and per transmission. With the framer the host's, a step
either leaves a pending read pending and completes nothing, or ends it with a receive completion; and with no read pending
a receive completion comes only from a host command that leaves none pending (`RX_ARM` on buffered bytes). Transmissions
alike. -/
def Obligations.OneCompletionPerOperation : Prop :=
  ∀ s t : State, s.Inv → s.srvEn = false → step s = .next t → s.sched.head? ≠ some .reset →
    (s.rxState = .readingMore →
        (t.rxState = .readingMore ∧ t.completed .rx = false) ∨ (t.rxState = .idle ∧ t.completed .rx = true)) ∧
      (s.rxState = .idle → t.completed .rx = true →
        t.rxState = .idle ∧ s.sched.head? = some (.take .host)) ∧
      (s.rxState = .idle → t.rxState = .readingMore → t.completed .rx = false) ∧
      (s.txState = .busy →
        (t.txState = .busy ∧ t.completed .tx = false) ∨ (t.txState = .idle ∧ t.completed .tx = true)) ∧
      (s.txState = .idle → t.completed .tx = true →
        t.txState = .idle ∧ s.sched.head? = some (.take .host)) ∧
      (s.txState = .idle → t.txState = .busy → t.completed .tx = false)

/-! ### CRC unit, varint unit, CSRs -/

/-- 41_crc R145 to R148: `CRC_INIT`, `CRC_BYTE`, `CRC_READ`, `CRC_CHECK`. -/
def Obligations.CrcCommands : Prop :=
  ∀ s : State,
    exec .crcInit s = .next { s.accept .host with crcReg := s.cfg.crcInit } ∧
      (∀ d : Byte, exec (.crcByte d) s = .next { s.accept .host with crcReg := crcStep s.cfg s.crcReg (refin s.cfg d) }) ∧
      exec .crcRead s = .next { s.accept .host with result := .crc (refout s.cfg s.crcReg ^^^ s.cfg.crcXorout) } ∧
      (∀ d : Half, exec (.crcCheck d) s =
        .next { s.accept .host with result := .check (decide (refout s.cfg s.crcReg ^^^ s.cfg.crcXorout = d)) })

/-- 41_crc R143, R145 to R148: the CRC unit computes `crc16` of the bytes fed since `CRC_INIT`, one command a byte, and
changes nothing else; the framer's checksum of the same bytes is the same function (R149, R150). -/
def Obligations.CrcOverBytes : Prop :=
  ∀ (s : State) (ds : List Byte),
    (∃ t : State, execAll (.crcInit :: (ds.map Instr.crcByte ++ [.crcRead])) s = .next t ∧
      t = { s with
        crcReg := t.crcReg, result := .crc (crc16 s.cfg ds), completion := none, offers := t.offers, sched := t.sched }) ∧
      (∀ d : Half, ∃ t : State, execAll (.crcInit :: (ds.map Instr.crcByte ++ [.crcCheck d])) s = .next t ∧
        t = { s with
          crcReg := t.crcReg, result := .check (decide (crc16 s.cfg ds = d)), completion := none, offers := t.offers
          sched := t.sched }) ∧
      fcs s.cfg ds =
        (match s.cfg.crcSpan with
          | .preceding => crc16 s.cfg ds
          | .withZeroField => crc16 s.cfg (ds ++ [0#8, 0#8]))

/-- 40_varint R125, R127, R128: `VENC`, `VDEC_CLR`, and `VDEC_BYTE` as the rule's pseudocode has it. -/
def Obligations.VarintCommands : Prop :=
  ∀ s : State,
    (∀ v : Word, exec (.venc v) s = .next { s.accept .host with result := .encoded (Sys2Proof.venc v) }) ∧
      exec .vdecClr s = .next { s.accept .host with vdAcc := 0#32, vdCnt := 0, vdSt := .empty } ∧
      (∀ (d : Byte) (j : Nat) (acc : Word) (r : VdRegs),
        j = (if s.vdSt = .done ∨ s.vdSt = .clamped then 0 else s.vdCnt) →
        acc = (if s.vdSt = .done ∨ s.vdSt = .clamped then 0#32 else s.vdAcc) |||
          ((d.extractLsb' 0 7).setWidth 32 <<< (7 * j)) →
        r = (if d.getLsbD 7 = false then
              if j = 4 ∧ d.extractLsb' 4 3 ≠ 0#3 ∧ s.cfg.fifthOverflow = .clamp then
                ⟨.clamped, 0xFFFFFFFF#32, j + 1⟩
              else ⟨.done, acc, j + 1⟩
            else if j + 1 = 5 then ⟨.clamped, 0xFFFFFFFF#32, j + 1⟩
            else ⟨.partialValue, acc, j + 1⟩) →
        exec (.vdecByte d) s =
          .next { s.accept .host with
            vdSt := r.st, vdAcc := r.acc, vdCnt := r.cnt, result := .varint r.st r.acc r.cnt })

/-- 40_varint R129: the two decoders agree. From `EMPTY`, `DONE` or `CLAMPED`, `VDEC_BYTE` answers `PARTIAL` before the last
byte of what `vdec` takes and `DONE` or `CLAMPED` with `vdec`'s value and count at it. -/
def Obligations.DecodersAgree : Prop :=
  ∀ (s : State) (bytes : List Byte) (k : Nat),
    ((s.vdSt = .empty ∧ s.vdCnt = 0 ∧ s.vdAcc = 0#32) ∨ s.vdSt = .done ∨ s.vdSt = .clamped) →
    1 ≤ k → k ≤ bytes.length →
    ∃ t : State, execAll ((bytes.take k).map Instr.vdecByte) s = .next t ∧
      t.result = .varint t.vdSt t.vdAcc t.vdCnt ∧
      (vdec s.cfg (bytes.take k) = none → t.vdSt = .partialValue) ∧
      (∀ v : VarU, vdec s.cfg bytes = some v →
        (k < v.size → t.vdSt = .partialValue) ∧
          (k = v.size → (t.vdSt = .done ∨ t.vdSt = .clamped) ∧ t.vdAcc = v.value ∧ t.vdCnt = v.size))

/-- 10_state R32: the fields of `STATUS`, in every state in which the host can read it; it is read-only and resets to 0. -/
def Obligations.StatusFields : Prop :=
  (∀ c : Config, (State.resetWith c).statusWord = 0#32) ∧
    (∀ (s : State) (v : Word), exec (.csrWrite 0x01#8 v) s = .next ((s.accept .host).raise .badCsr)) ∧
    (∀ s : State, s.srvState ≠ .dispatching → s.rxState ≠ .awaitFrame → s.vdCnt ≤ 5 →
      ∃ w : Word, exec (.csrRead 0x01#8) s = .next { s.accept .host with result := .csr w } ∧
        (w.getLsbD 0 = true ↔ s.srvEn = true) ∧
        (w.extractLsb' 1 2 = 0#2 ↔ s.srvState = .idle) ∧ (w.extractLsb' 1 2 = 1#2 ↔ s.srvState = .frameReceived) ∧
        w.extractLsb' 1 2 ≠ 2#2 ∧ (w.extractLsb' 1 2 = 3#2 ↔ s.srvState = .replyAssembled) ∧
        (w.extractLsb' 3 2 = 0#2 ↔ s.rxState = .idle) ∧ (w.extractLsb' 3 2 = 2#2 ↔ s.rxState = .readingMore) ∧
        (w.getLsbD 5 = true ↔ s.txState = .busy) ∧
        (w.extractLsb' 6 3 = 0#3 ↔ s.vdSt = .empty) ∧ (w.extractLsb' 6 3 = 1#3 ↔ s.vdSt = .partialValue) ∧
        (w.extractLsb' 6 3 = 2#3 ↔ s.vdSt = .done) ∧ (w.extractLsb' 6 3 = 3#3 ↔ s.vdSt = .clamped) ∧
        (w.extractLsb' 9 3).toNat = s.vdCnt ∧
        (w.getLsbD 12 = true ↔ s.rxfTrunc = true) ∧
        w.extractLsb' 13 19 = 0#19)

/-- 10_state R35, R36: `CSR_READ` and `CSR_WRITE` at every index. -/
def Obligations.CsrAccess : Prop :=
  ∀ s : State,
    exec (.csrRead 0x00#8) s = .next { s.accept .host with result := .csr (s.nodeId.setWidth 32) } ∧
      (s.srvState ≠ .dispatching → s.rxState ≠ .awaitFrame → s.vdCnt ≤ 5 →
        exec (.csrRead 0x01#8) s = .next { s.accept .host with result := .csr s.statusWord }) ∧
      exec (.csrRead 0x02#8) s = .next { s.accept .host with result := .csr s.fault } ∧
      exec (.csrRead 0x03#8) s =
        .next { s.accept .host with result := .csr ((refout s.cfg s.crcReg ^^^ s.cfg.crcXorout).setWidth 32) } ∧
      (s.statsOk → s.cfg.statsWidth ≤ 32 →
        ∀ p ∈ [(0x10#8, Counter.wrongId), (0x11#8, Counter.receiveOverrun), (0x12#8, Counter.unknownSubframe),
            (0x13#8, Counter.missingSubframe), (0x14#8, Counter.malformedSubframe), (0x15#8, Counter.writeError),
            (0x16#8, Counter.checksumMismatch)],
          ∃ w : Word, exec (.csrRead p.1) s = .next { s.accept .host with result := .csr w } ∧
            w.toNat = s.stats.get p.2) ∧
      (∀ i : Byte, (0x04 ≤ i.toNat ∧ i.toNat ≤ 0x0F) ∨ 0x17 ≤ i.toNat →
        exec (.csrRead i) s = .next ((s.accept .host).raise .badCsr)) ∧
      (∀ v : Word, exec (.csrWrite 0x00#8 v) s = .next { s.accept .host with nodeId := v.extractLsb' 0 8 }) ∧
      (∀ (i : Byte) (v : Word), i ≠ 0x00#8 → exec (.csrWrite i v) s = .next ((s.accept .host).raise .badCsr))

/-! ### Request builder and reply parser -/

/-- 44_subframe_codec R246 to R251: the request builder's commands. `RQ_WRITE` and `RQ_READ` append one whole subframe, or
fault and append nothing. -/
def Obligations.RequestBuilder : Prop :=
  ∀ s : State,
    exec .rqClear s = .next { s.accept .host with rqBuf := [] } ∧
      (∀ b : Bool, exec (.rqSetRr b) s = .next { s.accept .host with rqRr := b }) ∧
      exec .rqGet s = .next { s.accept .host with result := .request s.rqBuf s.rqRr } ∧
      (∀ (reg : Word) (t : VType),
      (∀ values : List (List Byte), (∀ v ∈ values, v.length = t.width) →
        (s.rqBuf.length + (subRw 0 t reg (values.map (Value.read t))).length ≤ s.cfg.rqCap →
            exec (.rqWrite reg t values) s =
              .next { s.accept .host with rqBuf := s.rqBuf ++ subRw 0 t reg (values.map (Value.read t)) }) ∧
          (s.cfg.rqCap < s.rqBuf.length + (subRw 0 t reg (values.map (Value.read t))).length →
            exec (.rqWrite reg t values) s = .next ((s.accept .host).raise .rqOverflow))) ∧
        (∀ values : List (List Byte), (∃ v ∈ values, v.length ≠ t.width) →
          exec (.rqWrite reg t values) s = .next ((s.accept .host).raise .badCmd)) ∧
        (∀ n : Word,
          (s.rqBuf.length + (subRead t reg n.toNat).length ≤ s.cfg.rqCap →
              exec (.rqRead reg t n) s =
                .next { s.accept .host with rqBuf := s.rqBuf ++ subRead t reg n.toNat, rqRr := true }) ∧
            (s.cfg.rqCap < s.rqBuf.length + (subRead t reg n.toNat).length →
              exec (.rqRead reg t n) s = .next ((s.accept .host).raise .rqOverflow))))

/-- 44_subframe_codec R260, R262, R243, R244: `RP_PARSE` records the reply and error subframes that stand in front of the first
byte that begins none, in order, and says how many bytes they take. Subframes with a five-byte varuint that overflows are no
instruction's encoding (log 19) and not among them; SubframesInReplyParser covers those, pass by pass. -/
def Obligations.ReplyParse : Prop :=
  ∀ (s : State) (is : List Instr) (ess : List (List (Word × RpEntry))) (tail payload : List Byte),
    payload = is.flatMap encode ++ tail →
    (∀ i ∈ is, i.wf s.cfg) → is.map recordsOf = ess.map some →
    (∀ (i : Instr) (r : List Byte), decodeSub s.cfg tail = .ok (i, r) → recordsOf i = none) →
    (payload.length ≤ s.cfg.maxPayload →
      exec (.rpParse payload) s =
        .next { s.accept .host with
          rpMap := recordAll [] ess.flatten, rpUsed := BitVec.ofNat 32 (is.flatMap encode).length
          result := .reply (recordAll [] ess.flatten) (BitVec.ofNat 32 (is.flatMap encode).length)
          parser := .none, rpPayload := [], rpPos := 0 }) ∧
      (s.cfg.maxPayload < payload.length → exec (.rpParse payload) s = .next ((s.accept .host).raise .badCmd))

/-- 44_subframe_codec R261: the later entry of a register replaces the earlier one; the map keeps its sorted form. -/
def Obligations.ReplyMapLastWins : Prop :=
  ∀ (m es : List (Word × RpEntry)) (reg : Word),
    rpLookup reg (recordAll m es) =
        (match es.reverse.find? (fun e => e.1 == reg) with
          | some e => some e.2
          | none => rpLookup reg m) ∧
      (rpSorted m → rpSorted (recordAll m es))

/-! ### Transmit -/

/-- 42_frame_codec R165, R166: `TX_FRAMES`. A batch is encoded into the transmit buffer; an empty batch completes at once; an
oversize batch faults and completes `FAILED`; a pending write or the dispatch unit refuses it. -/
def Obligations.TransmitStart : Prop :=
  ∀ (s : State) (frames : List Frame),
    (s.srvEn = true → exec (.txFrames frames) s = .next ((s.accept .host).raise .serverOwns)) ∧
      (s.srvEn = false → s.txState = .busy →
        exec (.txFrames frames) s = .next ((s.accept .host).raise .doubleWrite)) ∧
      (s.srvEn = false → s.txState = .idle →
        ((∃ f ∈ frames, s.cfg.maxPayload < f.payload.length) ∨ s.cfg.txBufSize < (frames.map frameLen).sum) →
        exec (.txFrames frames) s =
          .next { (s.accept .host).raise .txOversize with completion := some ⟨.tx, .failed, .sent 0⟩ }) ∧
      (s.srvEn = false → s.txState = .idle → (∀ f ∈ frames, f.payload.length ≤ s.cfg.maxPayload) →
        (frames.map frameLen).sum ≤ s.cfg.txBufSize → frames ≠ [] →
        exec (.txFrames frames) s =
          .next { s.accept .host with
            txBuf := frames.flatMap (encodeFrame s.cfg), txPos := 0, txOwner := .host, txState := .busy }) ∧
      (s.srvEn = false → s.txState = .idle →
        exec (.txFrames []) s =
          .next { s.accept .host with
            txBuf := [], txPos := 0, txOwner := .host, completion := some ⟨.tx, .ok, .sent 0⟩ })

/-- 42_frame_codec R167: `TX_TAKE` takes the next byte; with the last byte the transmission completes, in the dispatch unit by
becoming idle and re-arming its read (45_dispatch R293). -/
def Obligations.TransmitTake : Prop :=
  ∀ (s : State) (d : Byte), s.txState = .busy → s.txBuf[s.txPos]? = some d →
    (s.txPos + 1 < s.txBuf.length →
        exec .txTake s = .next { s.accept .transportTx with txPos := s.txPos + 1, result := .byte d }) ∧
      (s.txPos + 1 = s.txBuf.length → s.txOwner = .host →
        exec .txTake s =
          .next { s.accept .transportTx with
            txPos := s.txPos + 1, result := .byte d, txState := .idle
            completion := some ⟨.tx, .ok, .sent s.txBuf.length⟩ }) ∧
      (s.txPos + 1 = s.txBuf.length → s.txOwner = .server → s.rxState = .idle →
        exec .txTake s =
          .next ({ s.accept .transportTx with
            txPos := s.txPos + 1, result := .byte d, txState := .idle } : State).rearmed)

/-- 42_frame_codec R167, R169, R170: the transport takes exactly the rest of the batch, in order, and the last byte brings the
one completion with the number of bytes sent. -/
def Obligations.TransmitDrains : Prop :=
  ∀ s : State, s.txState = .busy → s.txOwner = .host → s.txPos < s.txBuf.length →
    ∃ u : State,
      takeRun (s.txBuf.length - s.txPos) s =
          some (s.txBuf.drop s.txPos, [⟨.tx, .ok, .sent s.txBuf.length⟩], u) ∧
        u = { s with
          txState := .idle, txPos := s.txBuf.length, result := u.result, completion := u.completion
          offers := u.offers, sched := u.sched }

/-- 42_frame_codec R168, 45_dispatch R293: `TX_TERR` ends the transmission with the error and the bytes taken; in the dispatch
unit it counts `WRITE_ERROR` and re-arms the read. -/
def Obligations.TransmitError : Prop :=
  ∀ (s : State) (e : Word), s.txState = .busy →
    (s.txOwner = .host →
        exec (.txTerr e) s =
          .next { s.accept .transportTx with
            txState := .idle, completion := some ⟨.tx, .transportError e, .sent s.txPos⟩ }) ∧
      (s.txOwner = .server → s.rxState = .idle →
        exec (.txTerr e) s =
          .next ({ s.accept .transportTx with
            txState := .idle, stats := s.stats.bump s.cfg.statsWidth .writeError } : State).rearmed)

/-! ### Receive -/

/-- 43_frame_sync R190, R194; 60_exceptions R366: `RX_ARM`, its checks in order, then the scan of what is buffered. -/
def Obligations.ReceiveArm : Prop :=
  ∀ (s : State) (cap : Word),
    (s.srvEn = true → exec (.rxArm cap) s = .next ((s.accept .host).raise .serverOwns)) ∧
      (s.srvEn = false → s.cfg.maxPayload < cap.toNat →
        exec (.rxArm cap) s = .next ((s.accept .host).raise .badCmd)) ∧
      (s.srvEn = false → cap.toNat ≤ s.cfg.maxPayload → s.rxState ≠ .idle →
        exec (.rxArm cap) s = .next ((s.accept .host).raise .doubleRead)) ∧
      (s.srvEn = false → cap.toNat ≤ s.cfg.maxPayload → s.rxState = .idle →
        exec (.rxArm cap) s = .next ((s.accept .host).armed cap.toNat .host))

/-- 43_frame_sync R191: `RX_BYTE` appends the byte and scans. -/
def Obligations.ReceiveByte : Prop :=
  ∀ (s : State) (d : Byte), s.rxState = .readingMore → s.rxBuf.length < s.cfg.rxBufSize →
    (s.rxOwner = .host ∨ s.cfg.maxPayload ≤ s.rxCap) →
    exec (.rxByte d) s =
      .next ({ s.accept .transportRx with rxBuf := s.rxBuf ++ [d], rxState := .awaitFrame } : State).scanned

/-- 43_frame_sync R195 to R197, 45_dispatch R285: how else a read ends. `RXBUF` is kept. -/
def Obligations.ReceiveEnds : Prop :=
  ∀ s : State,
    (s.srvEn = false → s.rxState = .idle → exec .rxCancel s = .next (s.accept .host)) ∧
      (s.rxState = .readingMore → s.rxOwner = .host →
        (s.srvEn = false →
          exec .rxCancel s =
            .next { s.accept .host with rxState := .idle, completion := some ⟨.rx, .canceled, .none⟩ }) ∧
        exec .rxTimeout s =
          .next { s.accept .timer with rxState := .idle, completion := some ⟨.rx, .timedOut, .none⟩ } ∧
        ∀ e : Word, exec (.rxTerr e) s =
          .next { s.accept .transportRx with
            rxState := .idle, completion := some ⟨.rx, .transportError e, .none⟩ }) ∧
      (s.rxState = .readingMore → s.rxOwner = .server →
        ∀ e : Word, exec (.rxTerr e) s =
          .next (({ s.accept .transportRx with rxState := .idle } : State).armed s.cfg.maxPayload .server))

/-- 43_frame_sync R188, R189: `FRAME`, the complete candidate at the front of the receive buffer during a scan: a mismatch is
counted and two bytes go; a match is delivered to the read's owner. THE MODEL'S CHOICE (log 17): a frame is met only
by the scan, and by nothing else does it anything. -/
def Obligations.FrameCandidate : Prop :=
  ∀ (s : State) (src : BitVec 7) (rr : Bool) (dst : Byte) (len : VarU) (payload : List Byte) (crc : Half),
    len.counts payload.length →
    (s.rxState ≠ .awaitFrame → exec (.frame src rr dst len payload crc) s = .next s) ∧
      (∀ rest : List Byte, s.rxState = .awaitFrame → s.rxBuf = encode (.frame src rr dst len payload crc) ++ rest →
        (fcs s.cfg ([0x54#8, 0xAB#8, srcByte src rr, dst] ++ len.bytes ++ payload) ≠ crc →
            exec (.frame src rr dst len payload crc) s =
              .next { s with
                stats := s.stats.bump s.cfg.statsWidth .checksumMismatch, rxBuf := s.rxBuf.drop 2 }) ∧
          (fcs s.cfg ([0x54#8, 0xAB#8, srcByte src rr, dst] ++ len.bytes ++ payload) = crc → s.rxOwner = .host →
            exec (.frame src rr dst len payload crc) s =
              .next { s with
                rxfSrc := src, rxfRr := rr, rxfDst := dst, rxfLen := len.value
                rxfPayload := payload.take (min payload.length s.rxCap)
                rxfTrunc := decide (s.rxCap < payload.length), rxState := .idle, rxBuf := rest
                completion := some ⟨.rx, if s.rxCap < payload.length then .truncated else .ok,
                  .frame src rr dst len.value (payload.take (min payload.length s.rxCap))⟩ }) ∧
          (fcs s.cfg ([0x54#8, 0xAB#8, srcByte src rr, dst] ++ len.bytes ++ payload) = crc → s.rxOwner = .server →
            payload.length ≤ s.rxCap →
            exec (.frame src rr dst len payload crc) s =
              .next { s with
                rxfSrc := src, rxfRr := rr, rxfDst := dst, rxfLen := len.value, rxfPayload := payload
                rxfTrunc := false, rxState := .idle, rxBuf := rest, srvState := .frameReceived }))

/-- 43_frame_sync R181: the scan, pass by pass over decoded candidates, is the rule's loop line by line. -/
def Obligations.ScanRefines : Prop :=
  ∀ s : State, s.rxState = .awaitFrame → (s.rxOwner = .host ∨ s.cfg.maxPayload ≤ s.rxCap) →
    scan s = .next s.scanned

/-- 43_frame_sync R193: chunking independence within one read. Bytes delivered one at a time lead to the state of one scan of
all of them, but for the bytes the transport has not delivered yet and the turns taken. The rule's re-arms and the other
agents' steps in between are not in it. -/
def Obligations.ChunkingIndependence : Prop :=
  ∀ (s : State) (ds : List Byte), s.cfg.wf → s.rxOk → s.rxState = .readingMore →
    (s.rxOwner = .host ∨ s.cfg.maxPayload ≤ s.rxCap) → s.result = .none → s.completion = none →
    ∃ (t u : State) (left : List Byte),
      feedRun ds s = some (t, left) ∧
        scan { s with rxBuf := s.rxBuf ++ ds, rxState := .awaitFrame } = .next u ∧
        t.rxBuf ++ left = u.rxBuf ∧
        t = { u with rxBuf := t.rxBuf, offers := t.offers, sched := t.sched }

/-! ### The dispatch unit -/

/-- 45_dispatch R283: `SRV_START`, its checks in order, then the read is armed. -/
def Obligations.ServerStart : Prop :=
  ∀ s : State,
    (s.srvEn = true → exec .srvStart s = .next ((s.accept .host).raise .srvRestart)) ∧
      (s.srvEn = false → s.rxState ≠ .idle → exec .srvStart s = .next ((s.accept .host).raise .doubleRead)) ∧
      (s.srvEn = false → s.rxState = .idle → s.txState = .busy →
        exec .srvStart s = .next ((s.accept .host).raise .doubleWrite)) ∧
      (s.srvEn = false → s.rxState = .idle → s.txState = .idle →
        exec .srvStart s =
          .next (({ s.accept .host with srvEn := true, srvState := .idle } : State).armed s.cfg.maxPayload .server))

/-- 45_dispatch R286, R287: a frame to another node is counted and nothing else is done with it. -/
def Obligations.DispatchWrongId : Prop :=
  ∀ s : State, s.srvState = .frameReceived → s.rxState = .idle → s.rxfDst ≠ s.nodeId &&& 0x7F#8 →
    s.rxfDst ≠ 0x7F#8 →
    exec .srvDispatch s =
      .next ({ s.accept .dispatch with stats := s.stats.bump s.cfg.statsWidth .wrongId } : State).rearmed

/-- 45_dispatch R287, R289, R293, 60_exceptions R367: `SRV_DISPATCH` on any frame addressed to the block completes. The parse
changes only the working state, the counters, the FIFOs and the record of store calls; it ends at the payload's end, at an
abort or after a tunnel subframe; it counts at most one cause of abort, and an overrun before it, but that with
`PARTIAL_WRITE_ON_TRUNCATION` set a short write may count a missing and then a malformed subframe (R290, R295; log 20). Then
the reply is in the transmit buffer, or the read is armed again. -/
def Obligations.DispatchCompletes : Prop :=
  ∀ s : State, s.Inv → s.srvState = .frameReceived → (s.rxfDst = s.nodeId &&& 0x7F#8 ∨ s.rxfDst = 0x7F#8) →
    ∃ u : State,
      u = { s.parsing with
          pp := u.pp, replyBuf := u.replyBuf, need := u.need, abort := u.abort, tunnelSeen := u.tunnelSeen
          stats := u.stats, tunnels := u.tunnels, storeLog := u.storeLog } ∧
        u.pp ≤ s.rxfLen.toNat ∧ (u.pp = s.rxfLen.toNat ∨ u.abort = true ∨ u.tunnelSeen = true) ∧
        u.replyBuf.length ≤ s.cfg.replyCap ∧ (s.rxfRr = true → u.need = true) ∧
        (∃ o e m : Option Counter,
          (o = none ∨ o = some .receiveOverrun) ∧
            (e = none ∨ e = some .unknownSubframe ∨ e = some .malformedSubframe ∨ e = some .missingSubframe) ∧
            (e.isSome = true ↔ u.abort = true) ∧
            (m = none ∨ (m = some .malformedSubframe ∧ e = some .missingSubframe ∧ s.cfg.partialWrite = true)) ∧
            u.stats = ((s.stats.bumpOpt s.cfg.statsWidth o).bumpOpt s.cfg.statsWidth e).bumpOpt s.cfg.statsWidth m) ∧
        exec .srvDispatch s =
          .next (if u.need = true ∧ ¬(s.rxfDst = 0x7F#8 ∧ s.rxfRr = false) then u.replied
            else ({ u with parser := .none } : State).rearmed)

/-- 45_dispatch R287, R288, R294: a payload made of subframes is executed in order, each by its own meaning, up to an abort or
a tunnel subframe; then the reply, or the re-armed read. Payloads with a five-byte varuint that overflows (log 19), or that end
in a short or unknown subframe (UndecodedSubframes), are not in it. -/
def Obligations.DispatchInOrder : Prop :=
  ∀ (s : State) (is : List Instr), s.Inv → s.srvState = .frameReceived →
    (s.rxfDst = s.nodeId &&& 0x7F#8 ∨ s.rxfDst = 0x7F#8) →
    s.rxfPayload = is.flatMap encode → (∀ i ∈ is, i.wf s.cfg ∧ i.language = .subframe) →
    ∃ u : State, dispatchAll is s.parsing = .next u ∧
      exec .srvDispatch s =
        .next (if u.need = true ∧ ¬(s.rxfDst = 0x7F#8 ∧ s.rxfRr = false) then u.replied
          else ({ u with parser := .none } : State).rearmed)

/-- 45_dispatch R295, R300 to R315: the sixteen write subframes in the dispatch unit. Every value is written, in register
order, before any error is reported; each rejected write draws a `WRITE_ERROR` subframe and makes a reply needed. -/
def Obligations.WriteSubframes : Prop :=
  ∀ (i : Instr) (s : State) (reg : Word) (vals : List Value) (errs : List (Word × Word)),
    i.writeView = some (reg, vals) → s.parser = .dispatch → s.abort = false →
    errs = errorsOf s.cfg.store (madeWrites s.storeLog) (writesOf reg vals) →
    exec i s =
      .next (appendItems (errs.map (fun e => subErr 0x30#8 e.1 e.2))
        { s with
          storeLog := s.storeLog ++ (writesOf reg vals).map .write, pp := s.pp + (encode i).length
          need := s.need || !errs.isEmpty })

/-- 45_dispatch R296, R316 to R331: the sixteen read subframes in the dispatch unit, with all the reads made at once. The
reply is the maximal runs of values and one `READ_ERROR` for each failed register, in register order, until one does not
fit. The calls recorded are the rule's own, in register order: all of them if everything fits; if not, those that the
reply uses and as many more as U15 leaves open (log 22). -/
def Obligations.ReadSubframes : Prop :=
  ∀ (i : Instr) (s : State) (t : VType) (n : Nat) (reg : Word),
    i.readView = some (t, n, reg) → s.parser = .dispatch → s.abort = false →
    ∃ (u : State) (k m : Nat),
      u = appendItems (readItems t none (answersOf s t n reg))
          { s with need := true, pp := s.pp + (encode i).length } ∧
        exec i s = .next { u with storeLog := s.storeLog ++ readCalls t reg m } ∧
        u.replyBuf = s.replyBuf ++ (readItems t none (answersOf s t k reg)).flatten ∧
        k ≤ m ∧ m ≤ n ∧ (u.abort = false → k = n)

/-- 45_dispatch R290: what `append_reply` does with one subframe: it is placed whole, or it is counted missing and the parse
is aborted. -/
def Obligations.AppendReply : Prop :=
  ∀ (s : State) (b : List Byte), s.abort = false →
    (s.replyBuf.length + b.length ≤ s.cfg.replyCap →
        appendItems [b] s = { s with replyBuf := s.replyBuf ++ b }) ∧
      (s.cfg.replyCap < s.replyBuf.length + b.length → ∀ more : List (List Byte),
        appendItems (b :: more) s =
          { s with stats := s.stats.bump s.cfg.statsWidth .missingSubframe, abort := true })

/-- 45_dispatch R291: the reply-direction subframes in the dispatch unit are unknown: counted, and the parse ends there. -/
def Obligations.ReplySubframesUnknown : Prop :=
  ∀ (i : Instr) (s : State), s.parser = .dispatch →
    (recordsOf i ≠ none ∨ ∃ (ch len : VarU) (data : List Byte), i = .tunnelS2c ch len data) →
    exec i s =
      .next { s with stats := s.stats.bump s.cfg.statsWidth .unknownSubframe, abort := true }

/-- 44_subframe_codec R225 to R244: what the reply parser does with each subframe: a reply or error is recorded and passed,
every other ends the parse. THE MODEL'S CHOICE (log 13, log 18): a subframe that no parser meets does nothing. -/
def Obligations.SubframesInReplyParser : Prop :=
  ∀ (i : Instr) (s : State), i.language = .subframe →
    (s.parser = .reply → ∀ es : List (Word × RpEntry), recordsOf i = some es →
        exec i s =
          .next { s with
            rpMap := recordAll s.rpMap es, rpPos := s.rpPos + (encode i).length
            rpUsed := BitVec.ofNat 32 (s.rpPos + (encode i).length) }) ∧
      (s.parser = .reply → recordsOf i = none → exec i s = .next { s with parser := .replyEnded }) ∧
      (s.parser = .none ∨ s.parser = .replyEnded → exec i s = .next s)

/-- 45_dispatch R291, R292, R295; 44_subframe_codec R244, R262: what a parser does with bytes that are no whole subframe of
its own. The dispatch unit counts an unknown code or a short subframe and aborts; a short write is carried out as far as its
values are complete when `PARTIAL_WRITE_ON_TRUNCATION` is set, one of its errors that does not fit is counted missing (R290),
and it is counted malformed in any case (R295; log 20). The reply parser ends. -/
def Obligations.UndecodedSubframes : Prop :=
  ∀ s : State,
    (∀ (code : Byte) (rest : List Byte), s.parser = .dispatch → s.pp < s.payload.length → s.abort = false →
        s.tunnelSeen = false → s.payload.drop s.pp = code :: rest →
        (decodeSub s.cfg (code :: rest) = .error .unknownCode →
            step s = .next { s with stats := s.stats.bump s.cfg.statsWidth .unknownSubframe, abort := true }) ∧
          (decodeSub s.cfg (code :: rest) = .error .short →
            (0x20 ≤ code.toNat ∧ code.toNat ≤ 0x31 → step s =
                .next { s with stats := s.stats.bump s.cfg.statsWidth .unknownSubframe, abort := true }) ∧
              (code = 0x41#8 → step s =
                .next { s with stats := s.stats.bump s.cfg.statsWidth .unknownSubframe, abort := true }) ∧
              ((0x10 ≤ code.toNat ∧ code.toNat ≤ 0x1F) ∨ code = 0x40#8 ∨ code = 0x42#8 → step s =
                .next { s with stats := s.stats.bump s.cfg.statsWidth .malformedSubframe, abort := true }) ∧
              (code.toNat ≤ 0x0F → s.cfg.partialWrite = false ∨ writeHeader s.cfg code rest = none → step s =
                .next { s with stats := s.stats.bump s.cfg.statsWidth .malformedSubframe, abort := true }) ∧
              (code.toNat ≤ 0x0F → s.cfg.partialWrite = true →
                ∀ (n r : VarU) (t : VType) (vals : List Value) (cut : List Byte) (errs : List (Word × Word)) (u : State),
                  n.wf → r.wf → t.index = code.toNat / 4 → (∀ v ∈ vals, v.type = t) → cut.length < t.width →
                  rest = (if code.toNat % 4 = 0 then n.bytes else []) ++ r.bytes ++ vals.flatMap Value.bytes ++ cut →
                  errs = errorsOf s.cfg.store (madeWrites s.storeLog) (writesOf r.value vals) →
                  u = appendItems (errs.map (fun e => subErr 0x30#8 e.1 e.2))
                    { s with
                      storeLog := s.storeLog ++ (writesOf r.value vals).map .write, need := s.need || !errs.isEmpty } →
                  step s = .next
                    { u with stats := u.stats.bump s.cfg.statsWidth .malformedSubframe, abort := true }))) ∧
      (s.parser = .reply → s.rpPos < s.rpPayload.length → ∀ e : DecodeError,
        decodeSub s.cfg (s.rpPayload.drop s.rpPos) = .error e → step s = .next { s with parser := .replyEnded })

/-- 45_dispatch R332 to R334, R336: the tunnel subframes and the nop in the dispatch unit. -/
def Obligations.TunnelSubframes : Prop :=
  ∀ (s : State) (ch len m : VarU) (data q : List Byte) (a : Nat), s.parser = .dispatch →
    q = s.rxq ch.value.toNat → a = min data.length (s.cfg.tunnelRxCap - q.length) →
    ((∃ id ∈ s.cfg.tunnelIds, id.toNat = ch.value.toNat) →
        exec (.tunnelC2s ch len data) s =
            .next (buildS2c ch.value none (({ s with
              need := true, tunnelSeen := true, pp := s.pp + (encode (.tunnelC2s ch len data)).length
              stats := if a < data.length then s.stats.bump s.cfg.statsWidth .receiveOverrun else s.stats } :
              State).setRxq ch.value.toNat (q ++ data.take a))) ∧
          exec (.tunnelPoll ch m) s =
            .next (buildS2c ch.value (some m.value.toNat) { s with
              need := true, tunnelSeen := true, pp := s.pp + (encode (.tunnelPoll ch m)).length })) ∧
      ((∀ id ∈ s.cfg.tunnelIds, id.toNat ≠ ch.value.toNat) →
        exec (.tunnelC2s ch len data) s =
            .next { s with stats := s.stats.bump s.cfg.statsWidth .unknownSubframe, abort := true } ∧
          exec (.tunnelPoll ch m) s =
            .next { s with stats := s.stats.bump s.cfg.statsWidth .unknownSubframe, abort := true }) ∧
      exec .nop s = .next { s with pp := s.pp + 1 }

/-- 45_dispatch R335: the `TUNNEL_S2C` reply carries as many pending bytes as the limit and the reply's room allow, which leave
the FIFO; none fits: counted missing; a broadcast without the reply flag: nothing. -/
def Obligations.TunnelReplyLargest : Prop :=
  ∀ (s : State) (ch : Word) (lim : Option Nat) (q : List Byte) (avail room : Nat),
    q = s.txq ch.toNat → avail = (match lim with | none => q.length | some m => min q.length m) →
    room = s.cfg.replyCap - s.replyBuf.length →
    (s.rxfDst = 0x7F#8 ∧ s.rxfRr = false → buildS2c ch lim s = s) ∧
      (¬(s.rxfDst = 0x7F#8 ∧ s.rxfRr = false) →
        ((∀ m, m ≤ avail → room < 1 + (venc ch).length + (vencNat m).length + m) →
            buildS2c ch lim s =
              { s with stats := s.stats.bump s.cfg.statsWidth .missingSubframe, abort := true }) ∧
          (∀ m, m ≤ avail → 1 + (venc ch).length + (vencNat m).length + m ≤ room →
            (∀ k, m < k → k ≤ avail → room < 1 + (venc ch).length + (vencNat k).length + k) →
            buildS2c ch lim s =
              { s.setTxq ch.toNat (q.drop m) with
                replyBuf := s.replyBuf ++ (0x41#8 :: (venc ch ++ vencNat m ++ q.take m)) }))

/-- 45_dispatch R337, R338: the tunnel ports. `T_READ` of nothing and `T_WRITE` of nothing, which the spec does not offer, move
nothing (log 21). -/
def Obligations.TunnelPorts : Prop :=
  ∀ (s : State) (ch : BitVec 7) (n : Word) (d : List Byte),
    (ch ∉ s.cfg.tunnelIds →
        exec (.tRead ch n) s = .next ((s.accept (.tunnelRead ch)).raise .badTunnel) ∧
          exec (.tWrite ch d) s = .next ((s.accept (.tunnelWrite ch)).raise .badTunnel)) ∧
      (ch ∈ s.cfg.tunnelIds → s.rxq ch.toNat ≠ [] →
        exec (.tRead ch n) s =
          .next { (s.accept (.tunnelRead ch)).setRxq ch.toNat ((s.rxq ch.toNat).drop n.toNat) with
            result := .bytes ((s.rxq ch.toNat).take n.toNat) }) ∧
      (ch ∈ s.cfg.tunnelIds → ∀ a : Nat, (s.txq ch.toNat).length < s.cfg.tunnelTxCap →
        a = min d.length (s.cfg.tunnelTxCap - (s.txq ch.toNat).length) →
        exec (.tWrite ch d) s =
          .next { (s.accept (.tunnelWrite ch)).setTxq ch.toNat (s.txq ch.toNat ++ d.take a) with
            result := .accepted a })

/-- Where the machine stops: the states that 93_implementation_defined part 2 (U7, U12, U13, U14) calls modelling errors, for
each `Fault`; and none of them meets the invariant (log 16). -/
def Obligations.ModellingErrors : Prop :=
  ∀ s : State,
    (s.srvState = .dispatching ∨ s.rxState = .awaitFrame ∨ 5 < s.vdCnt →
        exec (.csrRead 0x01#8) s = .fault .statusEncoding ∧ ¬s.Inv) ∧
      (s.rxState = .readingMore → s.cfg.rxBufSize ≤ s.rxBuf.length →
        (∀ d : Byte, exec (.rxByte d) s = .fault .rxOverflow) ∧ ¬s.Inv) ∧
      (s.rxState = .readingMore → s.srvEn = false → s.rxOwner = .server →
        exec .rxCancel s = .fault .serverCompletion ∧ ¬s.Inv) ∧
      (∀ (src : BitVec 7) (rr : Bool) (dst : Byte) (len : VarU) (payload rest : List Byte),
        s.rxState = .awaitFrame → s.rxOwner = .server → s.rxCap < payload.length → len.counts payload.length →
        ∀ crc : Half, crc = fcs s.cfg ([0x54#8, 0xAB#8, srcByte src rr, dst] ++ len.bytes ++ payload) →
        s.rxBuf = encode (.frame src rr dst len payload crc) ++ rest →
          exec (.frame src rr dst len payload crc) s = .fault .serverCompletion ∧ ¬s.Inv) ∧
      (s.txState = .busy → s.txBuf.length ≤ s.txPos → exec .txTake s = .fault .outOfBounds ∧ ¬s.Inv) ∧
      (s.srvState = .frameReceived → (s.rxfDst = s.nodeId &&& 0x7F#8 ∨ s.rxfDst = 0x7F#8) →
        (s.rxfPayload.length < s.rxfLen.toNat → exec .srvDispatch s = .fault .outOfBounds ∧ ¬s.Inv) ∧
          (∀ (is : List Instr) (u : State), s.rxfPayload = is.flatMap encode → s.rxfPayload.length = s.rxfLen.toNat →
            (∀ i ∈ is, i.wf s.cfg ∧ i.language = .subframe) → dispatchAll is s.parsing = .next u →
            u.need = true → ¬(s.rxfDst = 0x7F#8 ∧ s.rxfRr = false) →
            s.txState = .busy ∨
              s.cfg.txBufSize < frameLen ⟨s.nodeId.setWidth 7, false, s.rxfSrc.setWidth 8, u.replyBuf⟩ →
            exec .srvDispatch s = .fault .replyPath ∧ ¬s.Inv))

/-- 10_state R37: a FIFO reads back what was put into it, and no other channel's changes, for the channels the block has. -/
def Obligations.TunnelQueues : Prop :=
  ∀ (s : State) (ch other : Nat) (q : List Byte), (∃ t ∈ s.tunnels, t.id.toNat = ch) →
    (s.setRxq ch q).rxq ch = q ∧ (s.setTxq ch q).txq ch = q ∧
      (s.setRxq ch q).txq ch = s.txq ch ∧ (s.setTxq ch q).rxq ch = s.rxq ch ∧
      (other ≠ ch → (s.setRxq ch q).rxq other = s.rxq other ∧ (s.setRxq ch q).txq other = s.txq other ∧
        (s.setTxq ch q).rxq other = s.rxq other ∧ (s.setTxq ch q).txq other = s.txq other)

end
end

