-- ==== Sys2Proof/Laws/PerInstr.lean ====
section
/-! SUPPORT. Statements for all instructions, made per instruction. `EncodedLength`: an instruction encodes to as many
bytes as its layout's length law says (30_encoding R80, R92 to R99; commands and events log 8). -/

namespace Sys2Proof

@[simp] theorem encVarBytes_length (n : Nat) (v : Word) : (encVarBytes n v).length = n := by
  induction n generalizing v with
  | zero => rfl
  | succ n ih =>
    cases n with
    | zero => rfl
    | succ n => simp [encVarBytes, ih]

@[simp] theorem VarU.bytes_length (v : VarU) : v.bytes.length = v.size := encVarBytes_length _ _

@[simp] theorem le16_length (v : Half) : (le16 v).length = 2 := rfl

@[simp] theorem le32_length (v : Word) : (le32 v).length = 4 := rfl

@[simp] theorem flatMap_le16_length (l : List Half) : (l.flatMap le16).length = 2 * l.length := by
  induction l with
  | nil => rfl
  | cons x l ih => simp [List.flatMap_cons, ih]; omega

@[simp] theorem flatMap_le32_length (l : List Word) : (l.flatMap le32).length = 4 * l.length := by
  induction l with
  | nil => rfl
  | cons x l ih => simp [List.flatMap_cons, ih]; omega

@[simp] theorem encBytes_length (d : List Byte) : (encBytes d).length = 4 + d.length := by
  simp [encBytes]

theorem flatMap_encFrameArg_length (l : List Frame) :
    (l.flatMap encFrameArg).length = (l.map (fun f => 6 + f.payload.length)).sum := by
  induction l with
  | nil => rfl
  | cons x l ih => simp [List.flatMap_cons, ih, encFrameArg]; omega

theorem flatMap_encPattern_length (l : List (List Byte)) :
    (l.flatMap encPattern).length = (l.map (fun v => 1 + v.length)).sum := by
  induction l with
  | nil => rfl
  | cons x l ih => simp [List.flatMap_cons, ih, encPattern]; omega

/-! The lengths of the layouts' shapes. -/

theorem length_var (c : Byte) (r : VarU) (l : List Byte) (k : Nat) (h : l.length = k) :
    (c :: (r.bytes ++ l)).length = 1 + r.size + k := by
  simp [h]; omega

theorem length_var2 (c : Byte) (r : VarU) (a b : List Byte) (k : Nat) (h : a.length + b.length = k) :
    (c :: (r.bytes ++ a ++ b)).length = 1 + r.size + k := by
  simp; omega

theorem length_var3 (c : Byte) (r : VarU) (a b d : List Byte) (k : Nat) (h : a.length + b.length + d.length = k) :
    (c :: (r.bytes ++ a ++ b ++ d)).length = 1 + r.size + k := by
  simp; omega

theorem length_one (c : Byte) (r : VarU) : (c :: r.bytes).length = 1 + r.size := by
  simp; omega

theorem length_two (c : Byte) (n r : VarU) : (c :: (n.bytes ++ r.bytes)).length = 1 + n.size + r.size := by
  simp; omega

theorem length_run (c : Byte) (n r : VarU) (l : List Byte) (k : Nat) (h : l.length = k) :
    (c :: (n.bytes ++ r.bytes ++ l)).length = 1 + n.size + r.size + k := by
  simp; omega

namespace Laws

/-- An instruction's encoding has the length its layout says. -/
def EncodedLength.Statement (i : Instr) : Prop := (encode i).length = i.size

theorem EncodedLength.frame (src : BitVec 7) (rr : Bool) (dst : Byte) (len : VarU) (payload : List Byte) (crc : Half) :
    EncodedLength.Statement (.frame src rr dst len payload crc) := by
  show ([0x54#8, 0xAB#8, srcByte src rr, dst] ++ len.bytes ++ payload ++ le16 crc).length = 4 + len.size + payload.length + 2
  simp; omega

theorem EncodedLength.writeI8N (n : VarU) (r : VarU) (vals : List (BitVec 8)) :
    EncodedLength.Statement (.writeI8N n r vals) := length_run _ _ _ _ _ rfl

theorem EncodedLength.writeI8_1 (r : VarU) (v0 : BitVec 8) : EncodedLength.Statement (.writeI8_1 r v0) :=
  length_var _ _ _ _ rfl

theorem EncodedLength.writeI8_2 (r : VarU) (v0 : BitVec 8) (v1 : BitVec 8) :
    EncodedLength.Statement (.writeI8_2 r v0 v1) := length_var _ _ _ _ rfl

theorem EncodedLength.writeI8_3 (r : VarU) (v0 : BitVec 8) (v1 : BitVec 8) (v2 : BitVec 8) :
    EncodedLength.Statement (.writeI8_3 r v0 v1 v2) := length_var _ _ _ _ rfl

theorem EncodedLength.writeI16N (n : VarU) (r : VarU) (vals : List (BitVec 16)) :
    EncodedLength.Statement (.writeI16N n r vals) := length_run _ _ _ _ _ (flatMap_le16_length _)

theorem EncodedLength.writeI16_1 (r : VarU) (v0 : BitVec 16) : EncodedLength.Statement (.writeI16_1 r v0) :=
  length_var _ _ _ _ rfl

theorem EncodedLength.writeI16_2 (r : VarU) (v0 : BitVec 16) (v1 : BitVec 16) :
    EncodedLength.Statement (.writeI16_2 r v0 v1) := length_var2 _ _ _ _ _ rfl

theorem EncodedLength.writeI16_3 (r : VarU) (v0 : BitVec 16) (v1 : BitVec 16) (v2 : BitVec 16) :
    EncodedLength.Statement (.writeI16_3 r v0 v1 v2) := length_var3 _ _ _ _ _ _ rfl

theorem EncodedLength.writeI32N (n : VarU) (r : VarU) (vals : List (BitVec 32)) :
    EncodedLength.Statement (.writeI32N n r vals) := length_run _ _ _ _ _ (flatMap_le32_length _)

theorem EncodedLength.writeI32_1 (r : VarU) (v0 : BitVec 32) : EncodedLength.Statement (.writeI32_1 r v0) :=
  length_var _ _ _ _ rfl

theorem EncodedLength.writeI32_2 (r : VarU) (v0 : BitVec 32) (v1 : BitVec 32) :
    EncodedLength.Statement (.writeI32_2 r v0 v1) := length_var2 _ _ _ _ _ rfl

theorem EncodedLength.writeI32_3 (r : VarU) (v0 : BitVec 32) (v1 : BitVec 32) (v2 : BitVec 32) :
    EncodedLength.Statement (.writeI32_3 r v0 v1 v2) := length_var3 _ _ _ _ _ _ rfl

theorem EncodedLength.writeF32N (n : VarU) (r : VarU) (vals : List (BitVec 32)) :
    EncodedLength.Statement (.writeF32N n r vals) := length_run _ _ _ _ _ (flatMap_le32_length _)

theorem EncodedLength.writeF32_1 (r : VarU) (v0 : BitVec 32) : EncodedLength.Statement (.writeF32_1 r v0) :=
  length_var _ _ _ _ rfl

theorem EncodedLength.writeF32_2 (r : VarU) (v0 : BitVec 32) (v1 : BitVec 32) :
    EncodedLength.Statement (.writeF32_2 r v0 v1) := length_var2 _ _ _ _ _ rfl

theorem EncodedLength.writeF32_3 (r : VarU) (v0 : BitVec 32) (v1 : BitVec 32) (v2 : BitVec 32) :
    EncodedLength.Statement (.writeF32_3 r v0 v1 v2) := length_var3 _ _ _ _ _ _ rfl

theorem EncodedLength.readI8N (n : VarU) (r : VarU) : EncodedLength.Statement (.readI8N n r) := length_two ..

theorem EncodedLength.readI8_1 (r : VarU) : EncodedLength.Statement (.readI8_1 r) := length_one ..

theorem EncodedLength.readI8_2 (r : VarU) : EncodedLength.Statement (.readI8_2 r) := length_one ..

theorem EncodedLength.readI8_3 (r : VarU) : EncodedLength.Statement (.readI8_3 r) := length_one ..

theorem EncodedLength.readI16N (n : VarU) (r : VarU) : EncodedLength.Statement (.readI16N n r) := length_two ..

theorem EncodedLength.readI16_1 (r : VarU) : EncodedLength.Statement (.readI16_1 r) := length_one ..

theorem EncodedLength.readI16_2 (r : VarU) : EncodedLength.Statement (.readI16_2 r) := length_one ..

theorem EncodedLength.readI16_3 (r : VarU) : EncodedLength.Statement (.readI16_3 r) := length_one ..

theorem EncodedLength.readI32N (n : VarU) (r : VarU) : EncodedLength.Statement (.readI32N n r) := length_two ..

theorem EncodedLength.readI32_1 (r : VarU) : EncodedLength.Statement (.readI32_1 r) := length_one ..

theorem EncodedLength.readI32_2 (r : VarU) : EncodedLength.Statement (.readI32_2 r) := length_one ..

theorem EncodedLength.readI32_3 (r : VarU) : EncodedLength.Statement (.readI32_3 r) := length_one ..

theorem EncodedLength.readF32N (n : VarU) (r : VarU) : EncodedLength.Statement (.readF32N n r) := length_two ..

theorem EncodedLength.readF32_1 (r : VarU) : EncodedLength.Statement (.readF32_1 r) := length_one ..

theorem EncodedLength.readF32_2 (r : VarU) : EncodedLength.Statement (.readF32_2 r) := length_one ..

theorem EncodedLength.readF32_3 (r : VarU) : EncodedLength.Statement (.readF32_3 r) := length_one ..

theorem EncodedLength.replyI8N (n : VarU) (r : VarU) (vals : List (BitVec 8)) :
    EncodedLength.Statement (.replyI8N n r vals) := length_run _ _ _ _ _ rfl

theorem EncodedLength.replyI8_1 (r : VarU) (v0 : BitVec 8) : EncodedLength.Statement (.replyI8_1 r v0) :=
  length_var _ _ _ _ rfl

theorem EncodedLength.replyI8_2 (r : VarU) (v0 : BitVec 8) (v1 : BitVec 8) :
    EncodedLength.Statement (.replyI8_2 r v0 v1) := length_var _ _ _ _ rfl

theorem EncodedLength.replyI8_3 (r : VarU) (v0 : BitVec 8) (v1 : BitVec 8) (v2 : BitVec 8) :
    EncodedLength.Statement (.replyI8_3 r v0 v1 v2) := length_var _ _ _ _ rfl

theorem EncodedLength.replyI16N (n : VarU) (r : VarU) (vals : List (BitVec 16)) :
    EncodedLength.Statement (.replyI16N n r vals) := length_run _ _ _ _ _ (flatMap_le16_length _)

theorem EncodedLength.replyI16_1 (r : VarU) (v0 : BitVec 16) : EncodedLength.Statement (.replyI16_1 r v0) :=
  length_var _ _ _ _ rfl

theorem EncodedLength.replyI16_2 (r : VarU) (v0 : BitVec 16) (v1 : BitVec 16) :
    EncodedLength.Statement (.replyI16_2 r v0 v1) := length_var2 _ _ _ _ _ rfl

theorem EncodedLength.replyI16_3 (r : VarU) (v0 : BitVec 16) (v1 : BitVec 16) (v2 : BitVec 16) :
    EncodedLength.Statement (.replyI16_3 r v0 v1 v2) := length_var3 _ _ _ _ _ _ rfl

theorem EncodedLength.replyI32N (n : VarU) (r : VarU) (vals : List (BitVec 32)) :
    EncodedLength.Statement (.replyI32N n r vals) := length_run _ _ _ _ _ (flatMap_le32_length _)

theorem EncodedLength.replyI32_1 (r : VarU) (v0 : BitVec 32) : EncodedLength.Statement (.replyI32_1 r v0) :=
  length_var _ _ _ _ rfl

theorem EncodedLength.replyI32_2 (r : VarU) (v0 : BitVec 32) (v1 : BitVec 32) :
    EncodedLength.Statement (.replyI32_2 r v0 v1) := length_var2 _ _ _ _ _ rfl

theorem EncodedLength.replyI32_3 (r : VarU) (v0 : BitVec 32) (v1 : BitVec 32) (v2 : BitVec 32) :
    EncodedLength.Statement (.replyI32_3 r v0 v1 v2) := length_var3 _ _ _ _ _ _ rfl

theorem EncodedLength.replyF32N (n : VarU) (r : VarU) (vals : List (BitVec 32)) :
    EncodedLength.Statement (.replyF32N n r vals) := length_run _ _ _ _ _ (flatMap_le32_length _)

theorem EncodedLength.replyF32_1 (r : VarU) (v0 : BitVec 32) : EncodedLength.Statement (.replyF32_1 r v0) :=
  length_var _ _ _ _ rfl

theorem EncodedLength.replyF32_2 (r : VarU) (v0 : BitVec 32) (v1 : BitVec 32) :
    EncodedLength.Statement (.replyF32_2 r v0 v1) := length_var2 _ _ _ _ _ rfl

theorem EncodedLength.replyF32_3 (r : VarU) (v0 : BitVec 32) (v1 : BitVec 32) (v2 : BitVec 32) :
    EncodedLength.Statement (.replyF32_3 r v0 v1 v2) := length_var3 _ _ _ _ _ _ rfl

theorem EncodedLength.writeError (r : VarU) (e : VarU) : EncodedLength.Statement (.writeError r e) := length_two ..

theorem EncodedLength.readError (r : VarU) (e : VarU) : EncodedLength.Statement (.readError r e) := length_two ..

theorem EncodedLength.tunnelC2s (ch : VarU) (len : VarU) (data : List Byte) :
    EncodedLength.Statement (.tunnelC2s ch len data) := length_run _ _ _ _ _ rfl

theorem EncodedLength.tunnelS2c (ch : VarU) (len : VarU) (data : List Byte) :
    EncodedLength.Statement (.tunnelS2c ch len data) := length_run _ _ _ _ _ rfl

theorem EncodedLength.tunnelPoll (ch : VarU) (m : VarU) : EncodedLength.Statement (.tunnelPoll ch m) :=
  length_two ..

theorem EncodedLength.nop : EncodedLength.Statement .nop := rfl

theorem EncodedLength.crcInit : EncodedLength.Statement .crcInit := rfl

theorem EncodedLength.crcByte (d : Byte) : EncodedLength.Statement (.crcByte d) := rfl

theorem EncodedLength.crcRead : EncodedLength.Statement .crcRead := rfl

theorem EncodedLength.crcCheck (d : Half) : EncodedLength.Statement (.crcCheck d) := rfl

theorem EncodedLength.venc (v : Word) : EncodedLength.Statement (.venc v) := rfl

theorem EncodedLength.vdecClr : EncodedLength.Statement .vdecClr := rfl

theorem EncodedLength.vdecByte (d : Byte) : EncodedLength.Statement (.vdecByte d) := rfl

theorem EncodedLength.txFrames (frames : List Frame) : EncodedLength.Statement (.txFrames frames) := by
  show (_ :: (le32 _ ++ frames.flatMap encFrameArg)).length = 5 + (frames.map (fun f => 6 + f.payload.length)).sum
  rw [List.length_cons, List.length_append, le32_length, flatMap_encFrameArg_length]
  omega

theorem EncodedLength.rxArm (cap : Word) : EncodedLength.Statement (.rxArm cap) := rfl

theorem EncodedLength.rxCancel : EncodedLength.Statement .rxCancel := rfl

theorem EncodedLength.srvStart : EncodedLength.Statement .srvStart := rfl

theorem EncodedLength.csrRead (i : Byte) : EncodedLength.Statement (.csrRead i) := rfl

theorem EncodedLength.csrWrite (i : Byte) (v : Word) : EncodedLength.Statement (.csrWrite i v) := rfl

theorem EncodedLength.rqClear : EncodedLength.Statement .rqClear := rfl

theorem EncodedLength.rqSetRr (b : Bool) : EncodedLength.Statement (.rqSetRr b) := rfl

theorem EncodedLength.rqWrite (reg : Word) (t : VType) (values : List (List Byte)) :
    EncodedLength.Statement (.rqWrite reg t values) := by
  show (_ :: (le32 _ ++ _ :: (le32 _ ++ values.flatMap encPattern))).length =
    10 + (values.map (fun v => 1 + v.length)).sum
  simp only [List.length_cons, List.length_append, le32_length, flatMap_encPattern_length]
  omega

theorem EncodedLength.rqRead (reg : Word) (t : VType) (n : Word) : EncodedLength.Statement (.rqRead reg t n) := rfl

theorem EncodedLength.rqGet : EncodedLength.Statement .rqGet := rfl

theorem EncodedLength.rpParse (payload : List Byte) : EncodedLength.Statement (.rpParse payload) := by
  show (_ :: encBytes payload).length = 5 + payload.length
  simp; omega

theorem EncodedLength.rxByte (d : Byte) : EncodedLength.Statement (.rxByte d) := rfl

theorem EncodedLength.rxTerr (e : Word) : EncodedLength.Statement (.rxTerr e) := rfl

theorem EncodedLength.txTake : EncodedLength.Statement .txTake := rfl

theorem EncodedLength.txTerr (e : Word) : EncodedLength.Statement (.txTerr e) := rfl

theorem EncodedLength.rxTimeout : EncodedLength.Statement .rxTimeout := rfl

theorem EncodedLength.tRead (ch : BitVec 7) (n : Word) : EncodedLength.Statement (.tRead ch n) := rfl

theorem EncodedLength.tWrite (ch : BitVec 7) (data : List Byte) : EncodedLength.Statement (.tWrite ch data) := by
  show (_ :: _ :: encBytes data).length = 6 + data.length
  simp; omega

theorem EncodedLength.srvDispatch : EncodedLength.Statement .srvDispatch := rfl

end Laws

end Sys2Proof
end

