-- ==== Sys2Proof/Laws/Codec.lean ====
section
/-! SUPPORT. The frame encoder's lengths, the bounds of the varuint units, and which language a decoded command or event
belongs to. -/

namespace Sys2Proof

/-- An encoder emits at most as many bytes as its loop may (40_varint R121). -/
theorem vencLoop_length_le (n : Nat) (v : Word) : (vencLoop n v).length ≤ n := by
  induction n generalizing v with
  | zero => simp [vencLoop]
  | succ n ih =>
    simp only [vencLoop]
    split
    · simp [ih]
    · simp

/-- A varuint takes at most 5 bytes (40_varint R120). -/
theorem venc_length_le (v : Word) : (venc v).length ≤ 5 := vencLoop_length_le 5 v

/-- A decoder's instruction when it takes the whole byte string. -/
theorem exact_ok {d : Decoded} {i : Instr} (h : exact d = .ok i) : d = .ok (i, []) := by
  unfold exact at h
  split at h
  · cases h
  · split at h
    · rename_i j s hs
      cases h
      simp at hs
      subst hs
      rfl
    · cases h

/-- What the host port's decoder answers is a command (30_encoding R85). -/
theorem decodeCommand_language {s rest : List Byte} {i : Instr} (h : decodeCommand s = .ok (i, rest)) :
    i.language = .command := by
  cases s with
  | nil => cases h
  | cons op s =>
    unfold decodeCommand at h
    dsimp only at h
    split at h
    all_goals first
      | (cases h; done)
      | (cases h; rfl)
      | (unfold arg8 at h; split at h <;> cases h; rfl)
      | (unfold arg16 at h; split at h <;> cases h; rfl)
      | (unfold arg32 at h; split at h <;> cases h; rfl)
      | (unfold argBytes at h; split at h <;> cases h; rfl)
      | (unfold argBit at h; split at h; · cases h
         · split at h <;> cases h; rfl)
      | (unfold argFrames at h; split at h; · cases h
         · split at h <;> cases h; rfl)
      | (unfold argRqWrite at h; split at h; · cases h
         · split at h; · cases h
           · split at h <;> cases h; rfl)
      | (unfold argRqRead at h; split at h; · cases h
         · split at h <;> cases h; rfl)
      | (split at h <;> cases h; rfl)

end Sys2Proof

namespace Sys2Proof.Machine

/-- Only commands and events have a port. -/
theorem portOf_language {i : Instr} {p : Port} (h : portOf i = some p) :
    i.language = .command ∨ i.language = .event := by
  cases i <;> first | (cases h; done) | (left; rfl) | (right; rfl)

/-- The length of an encoded frame (42_frame_codec R162). -/
theorem encodeFrame_length (c : Config) (f : Frame) : (encodeFrame c f).length = frameLen f := by
  simp [encodeFrame, frameHead, frameLen]
  omega

/-- The length of an encoded batch. -/
theorem batch_length (c : Config) (fs : List Frame) :
    (fs.flatMap (encodeFrame c)).length = (fs.map frameLen).sum := by
  induction fs with
  | nil => rfl
  | cons f fs ih => simp [List.flatMap_cons, ih, encodeFrame_length]

/-- The most a frame can take (42_frame_codec R162). -/
theorem frameLen_le (f : Frame) : frameLen f ≤ f.payload.length + 11 := by
  have := venc_length_le (BitVec.ofNat 32 f.payload.length)
  simp only [frameLen, vencNat]
  omega

/-- What one byte makes of the incremental decoder's registers (40_varint R128, 10_state R23). -/
theorem vdFeed_ok (c : Config) (r : VdRegs) (d : Byte) (h : (vdStart r).cnt ≤ 4) :
    ((vdFeed c r d).st = .partialValue ∧ 1 ≤ (vdFeed c r d).cnt ∧ (vdFeed c r d).cnt ≤ 4) ∨
      ((vdFeed c r d).st = .done ∧ 1 ≤ (vdFeed c r d).cnt ∧ (vdFeed c r d).cnt ≤ 5) ∨
      ((vdFeed c r d).st = .clamped ∧ (vdFeed c r d).cnt = 5 ∧ (vdFeed c r d).acc = 0xFFFFFFFF#32) := by
  unfold vdFeed
  dsimp only
  split
  · split
    · exact .inr (.inr ⟨rfl, by simp; omega, rfl⟩)
    · exact .inr (.inl ⟨rfl, by simp, by simp; omega⟩)
  · split
    · exact .inr (.inr ⟨rfl, by assumption, rfl⟩)
    · exact .inl ⟨rfl, by simp, by simp; omega⟩

/-- Before a byte the decoder has taken at most 4 bytes of a value. -/
theorem vdStart_cnt {s : State} (h : s.vdOk) : (vdStart s.vdRegs).cnt ≤ 4 := by
  obtain ⟨h1, h2, h3, h4⟩ := h
  unfold vdStart State.vdRegs
  dsimp only
  cases hs : s.vdSt
  · simp [(h1 hs).1]
  · exact (h2 hs).2
  · simp
  · simp

end Sys2Proof.Machine
end

