-- ==== Sys2Proof/Laws/Decode.lean ====
section
/-! SUPPORT. What the decoders can answer: the size of a varuint, how much of its input a decoder takes, and that it
needs more bytes only while bytes are missing. -/

namespace Sys2Proof

/-! ### Varuints -/

theorem vdecLoop_size {c : Config} {j : Nat} {acc : Word} {s : List Byte} {v : VarU} (hj : j ≤ 4)
    (h : vdecLoop c j acc s = some v) : j < v.size ∧ v.size ≤ 5 ∧ v.size ≤ j + s.length := by
  induction s generalizing j acc with
  | nil => simp [vdecLoop] at h
  | cons b s ih =>
    simp only [vdecLoop] at h
    split at h
    · split at h <;> (cases h; simp; omega)
    · split at h
      · cases h; simp; omega
      · have := ih (by omega) h
        simp; omega

/-- A varuint takes 1 to 5 bytes, all of them there (40_varint R123). -/
theorem vdec_size {c : Config} {s : List Byte} {v : VarU} (h : vdec c s = some v) :
    1 ≤ v.size ∧ v.size ≤ 5 ∧ v.size ≤ s.length := by
  have := vdecLoop_size (by omega) h
  omega

theorem vdecLoop_append {c : Config} {j : Nat} {acc : Word} {s t : List Byte} {v : VarU}
    (h : vdecLoop c j acc s = some v) : vdecLoop c j acc (s ++ t) = some v := by
  induction s generalizing j acc with
  | nil => simp [vdecLoop] at h
  | cons b s ih =>
    simp only [vdecLoop, List.cons_append] at h ⊢
    split <;> simp_all
    split <;> simp_all

/-- A decoded varuint does not depend on the bytes after it. -/
theorem vdec_append {c : Config} {s t : List Byte} {v : VarU} (h : vdec c s = some v) :
    vdec c (s ++ t) = some v := vdecLoop_append h

theorem vdecLoop_none {c : Config} {j : Nat} {acc : Word} {s : List Byte} (hj : j ≤ 4)
    (h : vdecLoop c j acc s = none) : j + s.length ≤ 4 ∧ ∀ b ∈ s, b.msb = true := by
  induction s generalizing j acc with
  | nil => simp; omega
  | cons b s ih =>
    simp only [vdecLoop] at h
    split at h
    · split at h <;> cases h
    · rename_i hb
      split at h
      · cases h
      · have := ih (by omega) h
        refine ⟨by simp; omega, ?_⟩
        intro x hx
        cases hx with
        | head => simpa using hb
        | tail _ hx => exact this.2 x hx

/-- An incomplete varuint has at most 4 bytes, each with the continuation bit set (40_varint R123). -/
theorem vdec_none {c : Config} {s : List Byte} (h : vdec c s = none) :
    s.length ≤ 4 ∧ ∀ b ∈ s, b.msb = true := by
  have := vdecLoop_none (by omega) h
  exact ⟨by omega, this.2⟩

/-- A varuint field takes 1 to 5 bytes off the front. -/
theorem takeVar_some {c : Config} {s r : List Byte} {v : VarU} (h : takeVar c s = some (v, r)) :
    1 ≤ v.size ∧ v.size ≤ 5 ∧ v.size + r.length = s.length ∧ r = s.drop v.size ∧ vdec c s = some v := by
  unfold takeVar at h
  split at h
  · cases h
  · rename_i w hw
    cases h
    have := vdec_size hw
    simp [hw]; omega

/-- A varuint field is missing exactly when the varuint is incomplete. -/
theorem takeVar_none {c : Config} {s : List Byte} (h : takeVar c s = none) :
    s.length ≤ 4 ∧ ∀ b ∈ s, b.msb = true := by
  unfold takeVar at h
  split at h
  · exact vdec_none ‹_›
  · cases h

/-- A varuint field does not depend on the bytes after it. -/
theorem takeVar_append {c : Config} {s r t : List Byte} {v : VarU} (h : takeVar c s = some (v, r)) :
    takeVar c (s ++ t) = some (v, r ++ t) := by
  obtain ⟨_, _, h3, rfl, h5⟩ := takeVar_some h
  simp only [takeVar, vdec_append h5]
  rw [List.drop_append_of_le_length (by omega)]

/-! ### Frames -/

/-- What a decoded frame looks like in the byte string (43_frame_sync R181): the header, the fields, a payload of the
length the varuint says, not above `MAX_PAYLOAD`, and the bytes after the CRC field left over. -/
theorem decodeFrame_ok {c : Config} {s rest : List Byte} {i : Instr} (h : decodeFrame c s = .ok (i, rest)) :
    ∃ src dst len s', s = 0x54#8 :: 0xAB#8 :: src :: dst :: s' ∧ vdec c s' = some len ∧
      len.value.toNat ≤ c.maxPayload ∧ len.size + len.value.toNat + 2 ≤ s'.length ∧
      i = .frame (src.setWidth 7) src.msb dst len ((s'.drop len.size).take len.value.toNat)
        (rd16 (s'.drop (len.size + len.value.toNat))) ∧
      rest = s'.drop (len.size + len.value.toNat + 2) := by
  unfold decodeFrame at h
  split at h
  · cases h
  · split at h
    · cases h
    · rename_i a s1 ha
      split at h
      · cases h
      · split at h
        · cases h
        · rename_i b s2 hb
          split at h
          · rename_i src dst s3
            split at h
            · cases h
            · rename_i len s4 hl
              split at h
              · cases h
              · split at h
                · cases h
                · rename_i h1 h2
                  obtain ⟨_, _, h6, rfl, h7⟩ := takeVar_some hl
                  simp only [Except.ok.injEq, Prod.mk.injEq] at h
                  obtain ⟨rfl, rfl⟩ := h
                  refine ⟨src, dst, len, s3, ?_, h7, by omega, ?_, ?_, ?_⟩
                  · simp_all
                  · simp at h2; omega
                  · simp [List.drop_drop]
                  · simp [List.drop_drop, Nat.add_assoc]
          · cases h

/-- When more bytes are needed, the byte string is shorter than the largest frame (43_frame_sync R192). -/
theorem decodeFrame_short {c : Config} {s : List Byte} (h : decodeFrame c s = .error .short) :
    s.length ≤ max 8 (c.maxPayload + 10) := by
  unfold decodeFrame at h
  split at h
  · simp
  · split at h
    · cases h
    · split at h
      · simp
      · split at h
        · cases h
        · split at h
          · split at h
            · rename_i hl
              have := takeVar_none hl
              simp; omega
            · rename_i len s4 hl
              obtain ⟨_, _, h6, _, _⟩ := takeVar_some hl
              split at h
              · cases h
              · split at h
                · simp; omega
                · cases h
          · rename_i s2 _ _ hx
            rcases s2 with _ | ⟨x, _ | ⟨y, s⟩⟩
            · simp
            · simp
            · exact absurd rfl (hx x y s)

end Sys2Proof
end

