-- ==== Sys2Proof/Laws/Length.lean ====
section
/-! SUPPORT. A subframe's length: the bytes the decoder takes off the payload are as many as the subframe encodes to. -/

namespace Sys2Proof

@[simp] theorem takeVals_length {α : Type} (w : Nat) (rd : List Byte → α) (n : Nat) (s : List Byte) :
    (takeVals w rd n s).length = n := by
  induction n generalizing s with
  | zero => rfl
  | succ n ih => simp [takeVals, ih]

/-- What an answer of a decoder says about the number of bytes it took. -/
def Decoded.sized (d : Decoded) (len : Nat) : Prop :=
  ∀ i rest, d = .ok (i, rest) → i.size + rest.length = len

theorem oneVar_sized {mk : VarU → Instr} {c : Config} {s : List Byte} {k : Nat}
    (h : ∀ r, (mk r).size = k + r.size) : Decoded.sized (oneVar mk c s) (k + s.length) := by
  intro i rest he
  unfold oneVar at he
  split at he
  · cases he
  · rename_i r s' hs
    obtain ⟨_, _, h3, _, _⟩ := takeVar_some hs
    cases he
    rw [h]; omega

theorem twoVars_sized {mk : VarU → VarU → Instr} {c : Config} {s : List Byte}
    (h : ∀ a b, (mk a b).size = 1 + a.size + b.size) : Decoded.sized (twoVars mk c s) (1 + s.length) := by
  intro i rest he
  unfold twoVars at he
  split at he
  · cases he
  · rename_i r s' hs
    obtain ⟨_, _, h3, _, _⟩ := takeVar_some hs
    have := oneVar_sized (k := 1 + r.size) (h r) i rest he
    omega

theorem runN_sized {α : Type} {mk : VarU → VarU → List α → Instr} {w : Nat} {rd : List Byte → α} {c : Config}
    {s : List Byte} (h : ∀ a b l, (mk a b l).size = 1 + a.size + b.size + w * l.length) :
    Decoded.sized (runN mk w rd c s) (1 + s.length) := by
  intro i rest he
  unfold runN at he
  split at he
  · cases he
  · rename_i n s1 hs
    obtain ⟨_, _, h3, _, _⟩ := takeVar_some hs
    split at he
    · cases he
    · rename_i r s2 hs2
      obtain ⟨_, _, h4, _, _⟩ := takeVar_some hs2
      split at he
      · cases he
      · rename_i hlen
        cases he
        rw [h, takeVals_length, List.length_drop, Nat.mul_comm w]; omega

theorem run1_sized {α : Type} {mk : VarU → α → Instr} {w : Nat} {rd : List Byte → α} {c : Config}
    {s : List Byte} (h : ∀ r x, (mk r x).size = 1 + r.size + w) :
    Decoded.sized (run1 mk w rd c s) (1 + s.length) := by
  intro i rest he
  unfold run1 at he
  split at he
  · cases he
  · rename_i r s1 hs
    obtain ⟨_, _, h3, _, _⟩ := takeVar_some hs
    split at he
    · cases he
    · cases he
      rw [h, List.length_drop]; omega

theorem run2_sized {α : Type} {mk : VarU → α → α → Instr} {w : Nat} {rd : List Byte → α} {c : Config}
    {s : List Byte} (h : ∀ r x y, (mk r x y).size = 1 + r.size + 2 * w) :
    Decoded.sized (run2 mk w rd c s) (1 + s.length) := by
  intro i rest he
  unfold run2 at he
  split at he
  · cases he
  · rename_i r s1 hs
    obtain ⟨_, _, h3, _, _⟩ := takeVar_some hs
    split at he
    · cases he
    · cases he
      rw [h, List.length_drop]; omega

theorem run3_sized {α : Type} {mk : VarU → α → α → α → Instr} {w : Nat} {rd : List Byte → α} {c : Config}
    {s : List Byte} (h : ∀ r x y z, (mk r x y z).size = 1 + r.size + 3 * w) :
    Decoded.sized (run3 mk w rd c s) (1 + s.length) := by
  intro i rest he
  unfold run3 at he
  split at he
  · cases he
  · rename_i r s1 hs
    obtain ⟨_, _, h3, _, _⟩ := takeVar_some hs
    split at he
    · cases he
    · cases he
      rw [h, List.length_drop]; omega

theorem dataForm_sized {mk : VarU → VarU → List Byte → Instr} {c : Config} {s : List Byte}
    (h : ∀ a b l, (mk a b l).size = 1 + a.size + b.size + l.length) :
    Decoded.sized (dataForm mk c s) (1 + s.length) := by
  intro i rest he
  unfold dataForm at he
  split at he
  · cases he
  · rename_i n s1 hs
    obtain ⟨_, _, h3, _, _⟩ := takeVar_some hs
    split at he
    · cases he
    · rename_i r s2 hs2
      obtain ⟨_, _, h4, _, _⟩ := takeVar_some hs2
      split at he
      · cases he
      · cases he
        rw [h, List.length_take, List.length_drop]; omega

/-- The subframe decoder takes as many bytes as the subframe it answers encodes to (30_encoding R101). -/
theorem decodeSub_size {c : Config} {s rest : List Byte} {i : Instr} (h : decodeSub c s = .ok (i, rest)) :
    i.size + rest.length = s.length := by
  cases s with
  | nil => simp [decodeSub] at h
  | cons code s =>
    have key : Decoded.sized (decodeSub c (code :: s)) (1 + s.length) := by
      unfold decodeSub
      dsimp only
      split
      all_goals first
        | exact runN_sized (fun a b l => by dsimp only [Instr.size]; try omega)
        | exact run1_sized (fun r x => by dsimp only [Instr.size]; try omega)
        | exact run2_sized (fun r x y => by dsimp only [Instr.size]; try omega)
        | exact run3_sized (fun r x y z => by dsimp only [Instr.size]; try omega)
        | exact twoVars_sized (fun a b => by dsimp only [Instr.size]; try omega)
        | exact oneVar_sized (fun r => by dsimp only [Instr.size]; try omega)
        | exact dataForm_sized (fun a b l => by dsimp only [Instr.size]; try omega)
        | (intro i rest he; cases he; dsimp only [Instr.size])
        | (intro i rest he; cases he)
    have := key i rest h
    simp; omega

/-- The length law of all instructions. -/
theorem encode_length (i : Instr) : (encode i).length = i.size := by
  cases i with
  | frame src rr dst len payload crc => exact Laws.EncodedLength.frame ..
  | writeI8N n r vals => exact Laws.EncodedLength.writeI8N ..
  | writeI8_1 r v0 => exact Laws.EncodedLength.writeI8_1 ..
  | writeI8_2 r v0 v1 => exact Laws.EncodedLength.writeI8_2 ..
  | writeI8_3 r v0 v1 v2 => exact Laws.EncodedLength.writeI8_3 ..
  | writeI16N n r vals => exact Laws.EncodedLength.writeI16N ..
  | writeI16_1 r v0 => exact Laws.EncodedLength.writeI16_1 ..
  | writeI16_2 r v0 v1 => exact Laws.EncodedLength.writeI16_2 ..
  | writeI16_3 r v0 v1 v2 => exact Laws.EncodedLength.writeI16_3 ..
  | writeI32N n r vals => exact Laws.EncodedLength.writeI32N ..
  | writeI32_1 r v0 => exact Laws.EncodedLength.writeI32_1 ..
  | writeI32_2 r v0 v1 => exact Laws.EncodedLength.writeI32_2 ..
  | writeI32_3 r v0 v1 v2 => exact Laws.EncodedLength.writeI32_3 ..
  | writeF32N n r vals => exact Laws.EncodedLength.writeF32N ..
  | writeF32_1 r v0 => exact Laws.EncodedLength.writeF32_1 ..
  | writeF32_2 r v0 v1 => exact Laws.EncodedLength.writeF32_2 ..
  | writeF32_3 r v0 v1 v2 => exact Laws.EncodedLength.writeF32_3 ..
  | readI8N n r => exact Laws.EncodedLength.readI8N ..
  | readI8_1 r => exact Laws.EncodedLength.readI8_1 ..
  | readI8_2 r => exact Laws.EncodedLength.readI8_2 ..
  | readI8_3 r => exact Laws.EncodedLength.readI8_3 ..
  | readI16N n r => exact Laws.EncodedLength.readI16N ..
  | readI16_1 r => exact Laws.EncodedLength.readI16_1 ..
  | readI16_2 r => exact Laws.EncodedLength.readI16_2 ..
  | readI16_3 r => exact Laws.EncodedLength.readI16_3 ..
  | readI32N n r => exact Laws.EncodedLength.readI32N ..
  | readI32_1 r => exact Laws.EncodedLength.readI32_1 ..
  | readI32_2 r => exact Laws.EncodedLength.readI32_2 ..
  | readI32_3 r => exact Laws.EncodedLength.readI32_3 ..
  | readF32N n r => exact Laws.EncodedLength.readF32N ..
  | readF32_1 r => exact Laws.EncodedLength.readF32_1 ..
  | readF32_2 r => exact Laws.EncodedLength.readF32_2 ..
  | readF32_3 r => exact Laws.EncodedLength.readF32_3 ..
  | replyI8N n r vals => exact Laws.EncodedLength.replyI8N ..
  | replyI8_1 r v0 => exact Laws.EncodedLength.replyI8_1 ..
  | replyI8_2 r v0 v1 => exact Laws.EncodedLength.replyI8_2 ..
  | replyI8_3 r v0 v1 v2 => exact Laws.EncodedLength.replyI8_3 ..
  | replyI16N n r vals => exact Laws.EncodedLength.replyI16N ..
  | replyI16_1 r v0 => exact Laws.EncodedLength.replyI16_1 ..
  | replyI16_2 r v0 v1 => exact Laws.EncodedLength.replyI16_2 ..
  | replyI16_3 r v0 v1 v2 => exact Laws.EncodedLength.replyI16_3 ..
  | replyI32N n r vals => exact Laws.EncodedLength.replyI32N ..
  | replyI32_1 r v0 => exact Laws.EncodedLength.replyI32_1 ..
  | replyI32_2 r v0 v1 => exact Laws.EncodedLength.replyI32_2 ..
  | replyI32_3 r v0 v1 v2 => exact Laws.EncodedLength.replyI32_3 ..
  | replyF32N n r vals => exact Laws.EncodedLength.replyF32N ..
  | replyF32_1 r v0 => exact Laws.EncodedLength.replyF32_1 ..
  | replyF32_2 r v0 v1 => exact Laws.EncodedLength.replyF32_2 ..
  | replyF32_3 r v0 v1 v2 => exact Laws.EncodedLength.replyF32_3 ..
  | writeError r e => exact Laws.EncodedLength.writeError ..
  | readError r e => exact Laws.EncodedLength.readError ..
  | tunnelC2s ch len data => exact Laws.EncodedLength.tunnelC2s ..
  | tunnelS2c ch len data => exact Laws.EncodedLength.tunnelS2c ..
  | tunnelPoll ch m => exact Laws.EncodedLength.tunnelPoll ..
  | nop => exact Laws.EncodedLength.nop
  | crcInit => exact Laws.EncodedLength.crcInit
  | crcByte d => exact Laws.EncodedLength.crcByte ..
  | crcRead => exact Laws.EncodedLength.crcRead
  | crcCheck d => exact Laws.EncodedLength.crcCheck ..
  | venc v => exact Laws.EncodedLength.venc ..
  | vdecClr => exact Laws.EncodedLength.vdecClr
  | vdecByte d => exact Laws.EncodedLength.vdecByte ..
  | txFrames frames => exact Laws.EncodedLength.txFrames ..
  | rxArm cap => exact Laws.EncodedLength.rxArm ..
  | rxCancel => exact Laws.EncodedLength.rxCancel
  | srvStart => exact Laws.EncodedLength.srvStart
  | csrRead i => exact Laws.EncodedLength.csrRead ..
  | csrWrite i v => exact Laws.EncodedLength.csrWrite ..
  | rqClear => exact Laws.EncodedLength.rqClear
  | rqSetRr b => exact Laws.EncodedLength.rqSetRr ..
  | rqWrite reg t values => exact Laws.EncodedLength.rqWrite ..
  | rqRead reg t n => exact Laws.EncodedLength.rqRead ..
  | rqGet => exact Laws.EncodedLength.rqGet
  | rpParse payload => exact Laws.EncodedLength.rpParse ..
  | rxByte d => exact Laws.EncodedLength.rxByte ..
  | rxTerr e => exact Laws.EncodedLength.rxTerr ..
  | txTake => exact Laws.EncodedLength.txTake
  | txTerr e => exact Laws.EncodedLength.txTerr ..
  | rxTimeout => exact Laws.EncodedLength.rxTimeout
  | tRead ch n => exact Laws.EncodedLength.tRead ..
  | tWrite ch data => exact Laws.EncodedLength.tWrite ..
  | srvDispatch => exact Laws.EncodedLength.srvDispatch

end Sys2Proof
end

