-- ==== Sys2Proof/Laws/State.lean ====
section
/-! SUPPORT. One lemma for each field and each named update of the state, true by `rfl`, so that no proof unfolds an
update. -/

namespace Sys2Proof.Machine

/-! `State.accept`: the agent's turn and its offer are gone, and the outputs of the step before. -/

@[simp] theorem State.accept_cfg (s : State) (p : Port) : (s.accept p).cfg = s.cfg := rfl
@[simp] theorem State.accept_crcReg (s : State) (p : Port) : (s.accept p).crcReg = s.crcReg := rfl
@[simp] theorem State.accept_vdAcc (s : State) (p : Port) : (s.accept p).vdAcc = s.vdAcc := rfl
@[simp] theorem State.accept_vdCnt (s : State) (p : Port) : (s.accept p).vdCnt = s.vdCnt := rfl
@[simp] theorem State.accept_vdSt (s : State) (p : Port) : (s.accept p).vdSt = s.vdSt := rfl
@[simp] theorem State.accept_rxBuf (s : State) (p : Port) : (s.accept p).rxBuf = s.rxBuf := rfl
@[simp] theorem State.accept_rxState (s : State) (p : Port) : (s.accept p).rxState = s.rxState := rfl
@[simp] theorem State.accept_rxCap (s : State) (p : Port) : (s.accept p).rxCap = s.rxCap := rfl
@[simp] theorem State.accept_rxOwner (s : State) (p : Port) : (s.accept p).rxOwner = s.rxOwner := rfl
@[simp] theorem State.accept_rxfSrc (s : State) (p : Port) : (s.accept p).rxfSrc = s.rxfSrc := rfl
@[simp] theorem State.accept_rxfRr (s : State) (p : Port) : (s.accept p).rxfRr = s.rxfRr := rfl
@[simp] theorem State.accept_rxfDst (s : State) (p : Port) : (s.accept p).rxfDst = s.rxfDst := rfl
@[simp] theorem State.accept_rxfLen (s : State) (p : Port) : (s.accept p).rxfLen = s.rxfLen := rfl
@[simp] theorem State.accept_rxfPayload (s : State) (p : Port) : (s.accept p).rxfPayload = s.rxfPayload := rfl
@[simp] theorem State.accept_rxfTrunc (s : State) (p : Port) : (s.accept p).rxfTrunc = s.rxfTrunc := rfl
@[simp] theorem State.accept_txState (s : State) (p : Port) : (s.accept p).txState = s.txState := rfl
@[simp] theorem State.accept_txBuf (s : State) (p : Port) : (s.accept p).txBuf = s.txBuf := rfl
@[simp] theorem State.accept_txPos (s : State) (p : Port) : (s.accept p).txPos = s.txPos := rfl
@[simp] theorem State.accept_txOwner (s : State) (p : Port) : (s.accept p).txOwner = s.txOwner := rfl
@[simp] theorem State.accept_srvEn (s : State) (p : Port) : (s.accept p).srvEn = s.srvEn := rfl
@[simp] theorem State.accept_srvState (s : State) (p : Port) : (s.accept p).srvState = s.srvState := rfl
@[simp] theorem State.accept_pp (s : State) (p : Port) : (s.accept p).pp = s.pp := rfl
@[simp] theorem State.accept_replyBuf (s : State) (p : Port) : (s.accept p).replyBuf = s.replyBuf := rfl
@[simp] theorem State.accept_need (s : State) (p : Port) : (s.accept p).need = s.need := rfl
@[simp] theorem State.accept_abort (s : State) (p : Port) : (s.accept p).abort = s.abort := rfl
@[simp] theorem State.accept_tunnelSeen (s : State) (p : Port) : (s.accept p).tunnelSeen = s.tunnelSeen := rfl
@[simp] theorem State.accept_nodeId (s : State) (p : Port) : (s.accept p).nodeId = s.nodeId := rfl
@[simp] theorem State.accept_stats (s : State) (p : Port) : (s.accept p).stats = s.stats := rfl
@[simp] theorem State.accept_fault (s : State) (p : Port) : (s.accept p).fault = s.fault := rfl
@[simp] theorem State.accept_tunnels (s : State) (p : Port) : (s.accept p).tunnels = s.tunnels := rfl
@[simp] theorem State.accept_rqBuf (s : State) (p : Port) : (s.accept p).rqBuf = s.rqBuf := rfl
@[simp] theorem State.accept_rqRr (s : State) (p : Port) : (s.accept p).rqRr = s.rqRr := rfl
@[simp] theorem State.accept_rpMap (s : State) (p : Port) : (s.accept p).rpMap = s.rpMap := rfl
@[simp] theorem State.accept_rpUsed (s : State) (p : Port) : (s.accept p).rpUsed = s.rpUsed := rfl
@[simp] theorem State.accept_storeLog (s : State) (p : Port) : (s.accept p).storeLog = s.storeLog := rfl
@[simp] theorem State.accept_parser (s : State) (p : Port) : (s.accept p).parser = s.parser := rfl
@[simp] theorem State.accept_rpPayload (s : State) (p : Port) : (s.accept p).rpPayload = s.rpPayload := rfl
@[simp] theorem State.accept_rpPos (s : State) (p : Port) : (s.accept p).rpPos = s.rpPos := rfl
@[simp] theorem State.accept_result (s : State) (p : Port) : (s.accept p).result = .none := rfl
@[simp] theorem State.accept_completion (s : State) (p : Port) : (s.accept p).completion = Option.none := rfl
@[simp] theorem State.accept_offers (s : State) (p : Port) : (s.accept p).offers = dropOffer p s.offers := rfl
@[simp] theorem State.accept_sched (s : State) (p : Port) : (s.accept p).sched = s.sched.tail := rfl

/-! `State.wait`: only the turn and the outputs of the step before are gone. -/

@[simp] theorem State.wait_cfg (s : State) : (s.wait).cfg = s.cfg := rfl
@[simp] theorem State.wait_crcReg (s : State) : (s.wait).crcReg = s.crcReg := rfl
@[simp] theorem State.wait_vdAcc (s : State) : (s.wait).vdAcc = s.vdAcc := rfl
@[simp] theorem State.wait_vdCnt (s : State) : (s.wait).vdCnt = s.vdCnt := rfl
@[simp] theorem State.wait_vdSt (s : State) : (s.wait).vdSt = s.vdSt := rfl
@[simp] theorem State.wait_rxBuf (s : State) : (s.wait).rxBuf = s.rxBuf := rfl
@[simp] theorem State.wait_rxState (s : State) : (s.wait).rxState = s.rxState := rfl
@[simp] theorem State.wait_rxCap (s : State) : (s.wait).rxCap = s.rxCap := rfl
@[simp] theorem State.wait_rxOwner (s : State) : (s.wait).rxOwner = s.rxOwner := rfl
@[simp] theorem State.wait_rxfSrc (s : State) : (s.wait).rxfSrc = s.rxfSrc := rfl
@[simp] theorem State.wait_rxfRr (s : State) : (s.wait).rxfRr = s.rxfRr := rfl
@[simp] theorem State.wait_rxfDst (s : State) : (s.wait).rxfDst = s.rxfDst := rfl
@[simp] theorem State.wait_rxfLen (s : State) : (s.wait).rxfLen = s.rxfLen := rfl
@[simp] theorem State.wait_rxfPayload (s : State) : (s.wait).rxfPayload = s.rxfPayload := rfl
@[simp] theorem State.wait_rxfTrunc (s : State) : (s.wait).rxfTrunc = s.rxfTrunc := rfl
@[simp] theorem State.wait_txState (s : State) : (s.wait).txState = s.txState := rfl
@[simp] theorem State.wait_txBuf (s : State) : (s.wait).txBuf = s.txBuf := rfl
@[simp] theorem State.wait_txPos (s : State) : (s.wait).txPos = s.txPos := rfl
@[simp] theorem State.wait_txOwner (s : State) : (s.wait).txOwner = s.txOwner := rfl
@[simp] theorem State.wait_srvEn (s : State) : (s.wait).srvEn = s.srvEn := rfl
@[simp] theorem State.wait_srvState (s : State) : (s.wait).srvState = s.srvState := rfl
@[simp] theorem State.wait_pp (s : State) : (s.wait).pp = s.pp := rfl
@[simp] theorem State.wait_replyBuf (s : State) : (s.wait).replyBuf = s.replyBuf := rfl
@[simp] theorem State.wait_need (s : State) : (s.wait).need = s.need := rfl
@[simp] theorem State.wait_abort (s : State) : (s.wait).abort = s.abort := rfl
@[simp] theorem State.wait_tunnelSeen (s : State) : (s.wait).tunnelSeen = s.tunnelSeen := rfl
@[simp] theorem State.wait_nodeId (s : State) : (s.wait).nodeId = s.nodeId := rfl
@[simp] theorem State.wait_stats (s : State) : (s.wait).stats = s.stats := rfl
@[simp] theorem State.wait_fault (s : State) : (s.wait).fault = s.fault := rfl
@[simp] theorem State.wait_tunnels (s : State) : (s.wait).tunnels = s.tunnels := rfl
@[simp] theorem State.wait_rqBuf (s : State) : (s.wait).rqBuf = s.rqBuf := rfl
@[simp] theorem State.wait_rqRr (s : State) : (s.wait).rqRr = s.rqRr := rfl
@[simp] theorem State.wait_rpMap (s : State) : (s.wait).rpMap = s.rpMap := rfl
@[simp] theorem State.wait_rpUsed (s : State) : (s.wait).rpUsed = s.rpUsed := rfl
@[simp] theorem State.wait_storeLog (s : State) : (s.wait).storeLog = s.storeLog := rfl
@[simp] theorem State.wait_parser (s : State) : (s.wait).parser = s.parser := rfl
@[simp] theorem State.wait_rpPayload (s : State) : (s.wait).rpPayload = s.rpPayload := rfl
@[simp] theorem State.wait_rpPos (s : State) : (s.wait).rpPos = s.rpPos := rfl
@[simp] theorem State.wait_result (s : State) : (s.wait).result = .none := rfl
@[simp] theorem State.wait_completion (s : State) : (s.wait).completion = Option.none := rfl
@[simp] theorem State.wait_offers (s : State) : (s.wait).offers = s.offers := rfl
@[simp] theorem State.wait_sched (s : State) : (s.wait).sched = s.sched.tail := rfl

/-! `State.raise`: only `FAULT` changes. -/

@[simp] theorem State.raise_cfg (s : State) (f : FaultBit) : (s.raise f).cfg = s.cfg := rfl
@[simp] theorem State.raise_crcReg (s : State) (f : FaultBit) : (s.raise f).crcReg = s.crcReg := rfl
@[simp] theorem State.raise_vdAcc (s : State) (f : FaultBit) : (s.raise f).vdAcc = s.vdAcc := rfl
@[simp] theorem State.raise_vdCnt (s : State) (f : FaultBit) : (s.raise f).vdCnt = s.vdCnt := rfl
@[simp] theorem State.raise_vdSt (s : State) (f : FaultBit) : (s.raise f).vdSt = s.vdSt := rfl
@[simp] theorem State.raise_rxBuf (s : State) (f : FaultBit) : (s.raise f).rxBuf = s.rxBuf := rfl
@[simp] theorem State.raise_rxState (s : State) (f : FaultBit) : (s.raise f).rxState = s.rxState := rfl
@[simp] theorem State.raise_rxCap (s : State) (f : FaultBit) : (s.raise f).rxCap = s.rxCap := rfl
@[simp] theorem State.raise_rxOwner (s : State) (f : FaultBit) : (s.raise f).rxOwner = s.rxOwner := rfl
@[simp] theorem State.raise_rxfSrc (s : State) (f : FaultBit) : (s.raise f).rxfSrc = s.rxfSrc := rfl
@[simp] theorem State.raise_rxfRr (s : State) (f : FaultBit) : (s.raise f).rxfRr = s.rxfRr := rfl
@[simp] theorem State.raise_rxfDst (s : State) (f : FaultBit) : (s.raise f).rxfDst = s.rxfDst := rfl
@[simp] theorem State.raise_rxfLen (s : State) (f : FaultBit) : (s.raise f).rxfLen = s.rxfLen := rfl
@[simp] theorem State.raise_rxfPayload (s : State) (f : FaultBit) : (s.raise f).rxfPayload = s.rxfPayload := rfl
@[simp] theorem State.raise_rxfTrunc (s : State) (f : FaultBit) : (s.raise f).rxfTrunc = s.rxfTrunc := rfl
@[simp] theorem State.raise_txState (s : State) (f : FaultBit) : (s.raise f).txState = s.txState := rfl
@[simp] theorem State.raise_txBuf (s : State) (f : FaultBit) : (s.raise f).txBuf = s.txBuf := rfl
@[simp] theorem State.raise_txPos (s : State) (f : FaultBit) : (s.raise f).txPos = s.txPos := rfl
@[simp] theorem State.raise_txOwner (s : State) (f : FaultBit) : (s.raise f).txOwner = s.txOwner := rfl
@[simp] theorem State.raise_srvEn (s : State) (f : FaultBit) : (s.raise f).srvEn = s.srvEn := rfl
@[simp] theorem State.raise_srvState (s : State) (f : FaultBit) : (s.raise f).srvState = s.srvState := rfl
@[simp] theorem State.raise_pp (s : State) (f : FaultBit) : (s.raise f).pp = s.pp := rfl
@[simp] theorem State.raise_replyBuf (s : State) (f : FaultBit) : (s.raise f).replyBuf = s.replyBuf := rfl
@[simp] theorem State.raise_need (s : State) (f : FaultBit) : (s.raise f).need = s.need := rfl
@[simp] theorem State.raise_abort (s : State) (f : FaultBit) : (s.raise f).abort = s.abort := rfl
@[simp] theorem State.raise_tunnelSeen (s : State) (f : FaultBit) : (s.raise f).tunnelSeen = s.tunnelSeen := rfl
@[simp] theorem State.raise_nodeId (s : State) (f : FaultBit) : (s.raise f).nodeId = s.nodeId := rfl
@[simp] theorem State.raise_stats (s : State) (f : FaultBit) : (s.raise f).stats = s.stats := rfl
@[simp] theorem State.raise_fault (s : State) (f : FaultBit) : (s.raise f).fault = s.fault ||| f.mask := rfl
@[simp] theorem State.raise_tunnels (s : State) (f : FaultBit) : (s.raise f).tunnels = s.tunnels := rfl
@[simp] theorem State.raise_rqBuf (s : State) (f : FaultBit) : (s.raise f).rqBuf = s.rqBuf := rfl
@[simp] theorem State.raise_rqRr (s : State) (f : FaultBit) : (s.raise f).rqRr = s.rqRr := rfl
@[simp] theorem State.raise_rpMap (s : State) (f : FaultBit) : (s.raise f).rpMap = s.rpMap := rfl
@[simp] theorem State.raise_rpUsed (s : State) (f : FaultBit) : (s.raise f).rpUsed = s.rpUsed := rfl
@[simp] theorem State.raise_storeLog (s : State) (f : FaultBit) : (s.raise f).storeLog = s.storeLog := rfl
@[simp] theorem State.raise_parser (s : State) (f : FaultBit) : (s.raise f).parser = s.parser := rfl
@[simp] theorem State.raise_rpPayload (s : State) (f : FaultBit) : (s.raise f).rpPayload = s.rpPayload := rfl
@[simp] theorem State.raise_rpPos (s : State) (f : FaultBit) : (s.raise f).rpPos = s.rpPos := rfl
@[simp] theorem State.raise_result (s : State) (f : FaultBit) : (s.raise f).result = s.result := rfl
@[simp] theorem State.raise_completion (s : State) (f : FaultBit) : (s.raise f).completion = s.completion := rfl
@[simp] theorem State.raise_offers (s : State) (f : FaultBit) : (s.raise f).offers = s.offers := rfl
@[simp] theorem State.raise_sched (s : State) (f : FaultBit) : (s.raise f).sched = s.sched := rfl

/-! `State.emit`: only the completion output changes. -/

@[simp] theorem State.emit_cfg (s : State) (p : CompletionPort) (st : Status) (d : CompletionData) :
    (s.emit p st d).cfg = s.cfg := rfl
@[simp] theorem State.emit_crcReg (s : State) (p : CompletionPort) (st : Status) (d : CompletionData) :
    (s.emit p st d).crcReg = s.crcReg := rfl
@[simp] theorem State.emit_vdAcc (s : State) (p : CompletionPort) (st : Status) (d : CompletionData) :
    (s.emit p st d).vdAcc = s.vdAcc := rfl
@[simp] theorem State.emit_vdCnt (s : State) (p : CompletionPort) (st : Status) (d : CompletionData) :
    (s.emit p st d).vdCnt = s.vdCnt := rfl
@[simp] theorem State.emit_vdSt (s : State) (p : CompletionPort) (st : Status) (d : CompletionData) :
    (s.emit p st d).vdSt = s.vdSt := rfl
@[simp] theorem State.emit_rxBuf (s : State) (p : CompletionPort) (st : Status) (d : CompletionData) :
    (s.emit p st d).rxBuf = s.rxBuf := rfl
@[simp] theorem State.emit_rxState (s : State) (p : CompletionPort) (st : Status) (d : CompletionData) :
    (s.emit p st d).rxState = s.rxState := rfl
@[simp] theorem State.emit_rxCap (s : State) (p : CompletionPort) (st : Status) (d : CompletionData) :
    (s.emit p st d).rxCap = s.rxCap := rfl
@[simp] theorem State.emit_rxOwner (s : State) (p : CompletionPort) (st : Status) (d : CompletionData) :
    (s.emit p st d).rxOwner = s.rxOwner := rfl
@[simp] theorem State.emit_rxfSrc (s : State) (p : CompletionPort) (st : Status) (d : CompletionData) :
    (s.emit p st d).rxfSrc = s.rxfSrc := rfl
@[simp] theorem State.emit_rxfRr (s : State) (p : CompletionPort) (st : Status) (d : CompletionData) :
    (s.emit p st d).rxfRr = s.rxfRr := rfl
@[simp] theorem State.emit_rxfDst (s : State) (p : CompletionPort) (st : Status) (d : CompletionData) :
    (s.emit p st d).rxfDst = s.rxfDst := rfl
@[simp] theorem State.emit_rxfLen (s : State) (p : CompletionPort) (st : Status) (d : CompletionData) :
    (s.emit p st d).rxfLen = s.rxfLen := rfl
@[simp] theorem State.emit_rxfPayload (s : State) (p : CompletionPort) (st : Status) (d : CompletionData) :
    (s.emit p st d).rxfPayload = s.rxfPayload := rfl
@[simp] theorem State.emit_rxfTrunc (s : State) (p : CompletionPort) (st : Status) (d : CompletionData) :
    (s.emit p st d).rxfTrunc = s.rxfTrunc := rfl
@[simp] theorem State.emit_txState (s : State) (p : CompletionPort) (st : Status) (d : CompletionData) :
    (s.emit p st d).txState = s.txState := rfl
@[simp] theorem State.emit_txBuf (s : State) (p : CompletionPort) (st : Status) (d : CompletionData) :
    (s.emit p st d).txBuf = s.txBuf := rfl
@[simp] theorem State.emit_txPos (s : State) (p : CompletionPort) (st : Status) (d : CompletionData) :
    (s.emit p st d).txPos = s.txPos := rfl
@[simp] theorem State.emit_txOwner (s : State) (p : CompletionPort) (st : Status) (d : CompletionData) :
    (s.emit p st d).txOwner = s.txOwner := rfl
@[simp] theorem State.emit_srvEn (s : State) (p : CompletionPort) (st : Status) (d : CompletionData) :
    (s.emit p st d).srvEn = s.srvEn := rfl
@[simp] theorem State.emit_srvState (s : State) (p : CompletionPort) (st : Status) (d : CompletionData) :
    (s.emit p st d).srvState = s.srvState := rfl
@[simp] theorem State.emit_pp (s : State) (p : CompletionPort) (st : Status) (d : CompletionData) :
    (s.emit p st d).pp = s.pp := rfl
@[simp] theorem State.emit_replyBuf (s : State) (p : CompletionPort) (st : Status) (d : CompletionData) :
    (s.emit p st d).replyBuf = s.replyBuf := rfl
@[simp] theorem State.emit_need (s : State) (p : CompletionPort) (st : Status) (d : CompletionData) :
    (s.emit p st d).need = s.need := rfl
@[simp] theorem State.emit_abort (s : State) (p : CompletionPort) (st : Status) (d : CompletionData) :
    (s.emit p st d).abort = s.abort := rfl
@[simp] theorem State.emit_tunnelSeen (s : State) (p : CompletionPort) (st : Status) (d : CompletionData) :
    (s.emit p st d).tunnelSeen = s.tunnelSeen := rfl
@[simp] theorem State.emit_nodeId (s : State) (p : CompletionPort) (st : Status) (d : CompletionData) :
    (s.emit p st d).nodeId = s.nodeId := rfl
@[simp] theorem State.emit_stats (s : State) (p : CompletionPort) (st : Status) (d : CompletionData) :
    (s.emit p st d).stats = s.stats := rfl
@[simp] theorem State.emit_fault (s : State) (p : CompletionPort) (st : Status) (d : CompletionData) :
    (s.emit p st d).fault = s.fault := rfl
@[simp] theorem State.emit_tunnels (s : State) (p : CompletionPort) (st : Status) (d : CompletionData) :
    (s.emit p st d).tunnels = s.tunnels := rfl
@[simp] theorem State.emit_rqBuf (s : State) (p : CompletionPort) (st : Status) (d : CompletionData) :
    (s.emit p st d).rqBuf = s.rqBuf := rfl
@[simp] theorem State.emit_rqRr (s : State) (p : CompletionPort) (st : Status) (d : CompletionData) :
    (s.emit p st d).rqRr = s.rqRr := rfl
@[simp] theorem State.emit_rpMap (s : State) (p : CompletionPort) (st : Status) (d : CompletionData) :
    (s.emit p st d).rpMap = s.rpMap := rfl
@[simp] theorem State.emit_rpUsed (s : State) (p : CompletionPort) (st : Status) (d : CompletionData) :
    (s.emit p st d).rpUsed = s.rpUsed := rfl
@[simp] theorem State.emit_storeLog (s : State) (p : CompletionPort) (st : Status) (d : CompletionData) :
    (s.emit p st d).storeLog = s.storeLog := rfl
@[simp] theorem State.emit_parser (s : State) (p : CompletionPort) (st : Status) (d : CompletionData) :
    (s.emit p st d).parser = s.parser := rfl
@[simp] theorem State.emit_rpPayload (s : State) (p : CompletionPort) (st : Status) (d : CompletionData) :
    (s.emit p st d).rpPayload = s.rpPayload := rfl
@[simp] theorem State.emit_rpPos (s : State) (p : CompletionPort) (st : Status) (d : CompletionData) :
    (s.emit p st d).rpPos = s.rpPos := rfl
@[simp] theorem State.emit_result (s : State) (p : CompletionPort) (st : Status) (d : CompletionData) :
    (s.emit p st d).result = s.result := rfl
@[simp] theorem State.emit_completion (s : State) (p : CompletionPort) (st : Status) (d : CompletionData) :
    (s.emit p st d).completion = some ⟨p, st, d⟩ := rfl
@[simp] theorem State.emit_offers (s : State) (p : CompletionPort) (st : Status) (d : CompletionData) :
    (s.emit p st d).offers = s.offers := rfl
@[simp] theorem State.emit_sched (s : State) (p : CompletionPort) (st : Status) (d : CompletionData) :
    (s.emit p st d).sched = s.sched := rfl

/-! `State.bump`: only the counters change. -/

@[simp] theorem State.bump_cfg (s : State) (c : Counter) : (s.bump c).cfg = s.cfg := rfl
@[simp] theorem State.bump_crcReg (s : State) (c : Counter) : (s.bump c).crcReg = s.crcReg := rfl
@[simp] theorem State.bump_vdAcc (s : State) (c : Counter) : (s.bump c).vdAcc = s.vdAcc := rfl
@[simp] theorem State.bump_vdCnt (s : State) (c : Counter) : (s.bump c).vdCnt = s.vdCnt := rfl
@[simp] theorem State.bump_vdSt (s : State) (c : Counter) : (s.bump c).vdSt = s.vdSt := rfl
@[simp] theorem State.bump_rxBuf (s : State) (c : Counter) : (s.bump c).rxBuf = s.rxBuf := rfl
@[simp] theorem State.bump_rxState (s : State) (c : Counter) : (s.bump c).rxState = s.rxState := rfl
@[simp] theorem State.bump_rxCap (s : State) (c : Counter) : (s.bump c).rxCap = s.rxCap := rfl
@[simp] theorem State.bump_rxOwner (s : State) (c : Counter) : (s.bump c).rxOwner = s.rxOwner := rfl
@[simp] theorem State.bump_rxfSrc (s : State) (c : Counter) : (s.bump c).rxfSrc = s.rxfSrc := rfl
@[simp] theorem State.bump_rxfRr (s : State) (c : Counter) : (s.bump c).rxfRr = s.rxfRr := rfl
@[simp] theorem State.bump_rxfDst (s : State) (c : Counter) : (s.bump c).rxfDst = s.rxfDst := rfl
@[simp] theorem State.bump_rxfLen (s : State) (c : Counter) : (s.bump c).rxfLen = s.rxfLen := rfl
@[simp] theorem State.bump_rxfPayload (s : State) (c : Counter) : (s.bump c).rxfPayload = s.rxfPayload := rfl
@[simp] theorem State.bump_rxfTrunc (s : State) (c : Counter) : (s.bump c).rxfTrunc = s.rxfTrunc := rfl
@[simp] theorem State.bump_txState (s : State) (c : Counter) : (s.bump c).txState = s.txState := rfl
@[simp] theorem State.bump_txBuf (s : State) (c : Counter) : (s.bump c).txBuf = s.txBuf := rfl
@[simp] theorem State.bump_txPos (s : State) (c : Counter) : (s.bump c).txPos = s.txPos := rfl
@[simp] theorem State.bump_txOwner (s : State) (c : Counter) : (s.bump c).txOwner = s.txOwner := rfl
@[simp] theorem State.bump_srvEn (s : State) (c : Counter) : (s.bump c).srvEn = s.srvEn := rfl
@[simp] theorem State.bump_srvState (s : State) (c : Counter) : (s.bump c).srvState = s.srvState := rfl
@[simp] theorem State.bump_pp (s : State) (c : Counter) : (s.bump c).pp = s.pp := rfl
@[simp] theorem State.bump_replyBuf (s : State) (c : Counter) : (s.bump c).replyBuf = s.replyBuf := rfl
@[simp] theorem State.bump_need (s : State) (c : Counter) : (s.bump c).need = s.need := rfl
@[simp] theorem State.bump_abort (s : State) (c : Counter) : (s.bump c).abort = s.abort := rfl
@[simp] theorem State.bump_tunnelSeen (s : State) (c : Counter) : (s.bump c).tunnelSeen = s.tunnelSeen := rfl
@[simp] theorem State.bump_nodeId (s : State) (c : Counter) : (s.bump c).nodeId = s.nodeId := rfl
@[simp] theorem State.bump_stats (s : State) (c : Counter) : (s.bump c).stats = s.stats.bump s.cfg.statsWidth c := rfl
@[simp] theorem State.bump_fault (s : State) (c : Counter) : (s.bump c).fault = s.fault := rfl
@[simp] theorem State.bump_tunnels (s : State) (c : Counter) : (s.bump c).tunnels = s.tunnels := rfl
@[simp] theorem State.bump_rqBuf (s : State) (c : Counter) : (s.bump c).rqBuf = s.rqBuf := rfl
@[simp] theorem State.bump_rqRr (s : State) (c : Counter) : (s.bump c).rqRr = s.rqRr := rfl
@[simp] theorem State.bump_rpMap (s : State) (c : Counter) : (s.bump c).rpMap = s.rpMap := rfl
@[simp] theorem State.bump_rpUsed (s : State) (c : Counter) : (s.bump c).rpUsed = s.rpUsed := rfl
@[simp] theorem State.bump_storeLog (s : State) (c : Counter) : (s.bump c).storeLog = s.storeLog := rfl
@[simp] theorem State.bump_parser (s : State) (c : Counter) : (s.bump c).parser = s.parser := rfl
@[simp] theorem State.bump_rpPayload (s : State) (c : Counter) : (s.bump c).rpPayload = s.rpPayload := rfl
@[simp] theorem State.bump_rpPos (s : State) (c : Counter) : (s.bump c).rpPos = s.rpPos := rfl
@[simp] theorem State.bump_result (s : State) (c : Counter) : (s.bump c).result = s.result := rfl
@[simp] theorem State.bump_completion (s : State) (c : Counter) : (s.bump c).completion = s.completion := rfl
@[simp] theorem State.bump_offers (s : State) (c : Counter) : (s.bump c).offers = s.offers := rfl
@[simp] theorem State.bump_sched (s : State) (c : Counter) : (s.bump c).sched = s.sched := rfl

/-! `State.setRxq`: only the tunnels change. -/

@[simp] theorem State.setRxq_cfg (s : State) (ch : Nat) (q : List Byte) : (s.setRxq ch q).cfg = s.cfg := rfl
@[simp] theorem State.setRxq_crcReg (s : State) (ch : Nat) (q : List Byte) : (s.setRxq ch q).crcReg = s.crcReg := rfl
@[simp] theorem State.setRxq_vdAcc (s : State) (ch : Nat) (q : List Byte) : (s.setRxq ch q).vdAcc = s.vdAcc := rfl
@[simp] theorem State.setRxq_vdCnt (s : State) (ch : Nat) (q : List Byte) : (s.setRxq ch q).vdCnt = s.vdCnt := rfl
@[simp] theorem State.setRxq_vdSt (s : State) (ch : Nat) (q : List Byte) : (s.setRxq ch q).vdSt = s.vdSt := rfl
@[simp] theorem State.setRxq_rxBuf (s : State) (ch : Nat) (q : List Byte) : (s.setRxq ch q).rxBuf = s.rxBuf := rfl
@[simp] theorem State.setRxq_rxState (s : State) (ch : Nat) (q : List Byte) :
    (s.setRxq ch q).rxState = s.rxState := rfl
@[simp] theorem State.setRxq_rxCap (s : State) (ch : Nat) (q : List Byte) : (s.setRxq ch q).rxCap = s.rxCap := rfl
@[simp] theorem State.setRxq_rxOwner (s : State) (ch : Nat) (q : List Byte) :
    (s.setRxq ch q).rxOwner = s.rxOwner := rfl
@[simp] theorem State.setRxq_rxfSrc (s : State) (ch : Nat) (q : List Byte) : (s.setRxq ch q).rxfSrc = s.rxfSrc := rfl
@[simp] theorem State.setRxq_rxfRr (s : State) (ch : Nat) (q : List Byte) : (s.setRxq ch q).rxfRr = s.rxfRr := rfl
@[simp] theorem State.setRxq_rxfDst (s : State) (ch : Nat) (q : List Byte) : (s.setRxq ch q).rxfDst = s.rxfDst := rfl
@[simp] theorem State.setRxq_rxfLen (s : State) (ch : Nat) (q : List Byte) : (s.setRxq ch q).rxfLen = s.rxfLen := rfl
@[simp] theorem State.setRxq_rxfPayload (s : State) (ch : Nat) (q : List Byte) :
    (s.setRxq ch q).rxfPayload = s.rxfPayload := rfl
@[simp] theorem State.setRxq_rxfTrunc (s : State) (ch : Nat) (q : List Byte) :
    (s.setRxq ch q).rxfTrunc = s.rxfTrunc := rfl
@[simp] theorem State.setRxq_txState (s : State) (ch : Nat) (q : List Byte) :
    (s.setRxq ch q).txState = s.txState := rfl
@[simp] theorem State.setRxq_txBuf (s : State) (ch : Nat) (q : List Byte) : (s.setRxq ch q).txBuf = s.txBuf := rfl
@[simp] theorem State.setRxq_txPos (s : State) (ch : Nat) (q : List Byte) : (s.setRxq ch q).txPos = s.txPos := rfl
@[simp] theorem State.setRxq_txOwner (s : State) (ch : Nat) (q : List Byte) :
    (s.setRxq ch q).txOwner = s.txOwner := rfl
@[simp] theorem State.setRxq_srvEn (s : State) (ch : Nat) (q : List Byte) : (s.setRxq ch q).srvEn = s.srvEn := rfl
@[simp] theorem State.setRxq_srvState (s : State) (ch : Nat) (q : List Byte) :
    (s.setRxq ch q).srvState = s.srvState := rfl
@[simp] theorem State.setRxq_pp (s : State) (ch : Nat) (q : List Byte) : (s.setRxq ch q).pp = s.pp := rfl
@[simp] theorem State.setRxq_replyBuf (s : State) (ch : Nat) (q : List Byte) :
    (s.setRxq ch q).replyBuf = s.replyBuf := rfl
@[simp] theorem State.setRxq_need (s : State) (ch : Nat) (q : List Byte) : (s.setRxq ch q).need = s.need := rfl
@[simp] theorem State.setRxq_abort (s : State) (ch : Nat) (q : List Byte) : (s.setRxq ch q).abort = s.abort := rfl
@[simp] theorem State.setRxq_tunnelSeen (s : State) (ch : Nat) (q : List Byte) :
    (s.setRxq ch q).tunnelSeen = s.tunnelSeen := rfl
@[simp] theorem State.setRxq_nodeId (s : State) (ch : Nat) (q : List Byte) : (s.setRxq ch q).nodeId = s.nodeId := rfl
@[simp] theorem State.setRxq_stats (s : State) (ch : Nat) (q : List Byte) : (s.setRxq ch q).stats = s.stats := rfl
@[simp] theorem State.setRxq_fault (s : State) (ch : Nat) (q : List Byte) : (s.setRxq ch q).fault = s.fault := rfl
@[simp] theorem State.setRxq_tunnels (s : State) (ch : Nat) (q : List Byte) :
    (s.setRxq ch q).tunnels = s.tunnels.map (fun t => if t.id.toNat = ch then { t with rxq := q } else t) := rfl
@[simp] theorem State.setRxq_rqBuf (s : State) (ch : Nat) (q : List Byte) : (s.setRxq ch q).rqBuf = s.rqBuf := rfl
@[simp] theorem State.setRxq_rqRr (s : State) (ch : Nat) (q : List Byte) : (s.setRxq ch q).rqRr = s.rqRr := rfl
@[simp] theorem State.setRxq_rpMap (s : State) (ch : Nat) (q : List Byte) : (s.setRxq ch q).rpMap = s.rpMap := rfl
@[simp] theorem State.setRxq_rpUsed (s : State) (ch : Nat) (q : List Byte) : (s.setRxq ch q).rpUsed = s.rpUsed := rfl
@[simp] theorem State.setRxq_storeLog (s : State) (ch : Nat) (q : List Byte) :
    (s.setRxq ch q).storeLog = s.storeLog := rfl
@[simp] theorem State.setRxq_parser (s : State) (ch : Nat) (q : List Byte) : (s.setRxq ch q).parser = s.parser := rfl
@[simp] theorem State.setRxq_rpPayload (s : State) (ch : Nat) (q : List Byte) :
    (s.setRxq ch q).rpPayload = s.rpPayload := rfl
@[simp] theorem State.setRxq_rpPos (s : State) (ch : Nat) (q : List Byte) : (s.setRxq ch q).rpPos = s.rpPos := rfl
@[simp] theorem State.setRxq_result (s : State) (ch : Nat) (q : List Byte) : (s.setRxq ch q).result = s.result := rfl
@[simp] theorem State.setRxq_completion (s : State) (ch : Nat) (q : List Byte) :
    (s.setRxq ch q).completion = s.completion := rfl
@[simp] theorem State.setRxq_offers (s : State) (ch : Nat) (q : List Byte) : (s.setRxq ch q).offers = s.offers := rfl
@[simp] theorem State.setRxq_sched (s : State) (ch : Nat) (q : List Byte) : (s.setRxq ch q).sched = s.sched := rfl

/-! `State.setTxq`: only the tunnels change. -/

@[simp] theorem State.setTxq_cfg (s : State) (ch : Nat) (q : List Byte) : (s.setTxq ch q).cfg = s.cfg := rfl
@[simp] theorem State.setTxq_crcReg (s : State) (ch : Nat) (q : List Byte) : (s.setTxq ch q).crcReg = s.crcReg := rfl
@[simp] theorem State.setTxq_vdAcc (s : State) (ch : Nat) (q : List Byte) : (s.setTxq ch q).vdAcc = s.vdAcc := rfl
@[simp] theorem State.setTxq_vdCnt (s : State) (ch : Nat) (q : List Byte) : (s.setTxq ch q).vdCnt = s.vdCnt := rfl
@[simp] theorem State.setTxq_vdSt (s : State) (ch : Nat) (q : List Byte) : (s.setTxq ch q).vdSt = s.vdSt := rfl
@[simp] theorem State.setTxq_rxBuf (s : State) (ch : Nat) (q : List Byte) : (s.setTxq ch q).rxBuf = s.rxBuf := rfl
@[simp] theorem State.setTxq_rxState (s : State) (ch : Nat) (q : List Byte) :
    (s.setTxq ch q).rxState = s.rxState := rfl
@[simp] theorem State.setTxq_rxCap (s : State) (ch : Nat) (q : List Byte) : (s.setTxq ch q).rxCap = s.rxCap := rfl
@[simp] theorem State.setTxq_rxOwner (s : State) (ch : Nat) (q : List Byte) :
    (s.setTxq ch q).rxOwner = s.rxOwner := rfl
@[simp] theorem State.setTxq_rxfSrc (s : State) (ch : Nat) (q : List Byte) : (s.setTxq ch q).rxfSrc = s.rxfSrc := rfl
@[simp] theorem State.setTxq_rxfRr (s : State) (ch : Nat) (q : List Byte) : (s.setTxq ch q).rxfRr = s.rxfRr := rfl
@[simp] theorem State.setTxq_rxfDst (s : State) (ch : Nat) (q : List Byte) : (s.setTxq ch q).rxfDst = s.rxfDst := rfl
@[simp] theorem State.setTxq_rxfLen (s : State) (ch : Nat) (q : List Byte) : (s.setTxq ch q).rxfLen = s.rxfLen := rfl
@[simp] theorem State.setTxq_rxfPayload (s : State) (ch : Nat) (q : List Byte) :
    (s.setTxq ch q).rxfPayload = s.rxfPayload := rfl
@[simp] theorem State.setTxq_rxfTrunc (s : State) (ch : Nat) (q : List Byte) :
    (s.setTxq ch q).rxfTrunc = s.rxfTrunc := rfl
@[simp] theorem State.setTxq_txState (s : State) (ch : Nat) (q : List Byte) :
    (s.setTxq ch q).txState = s.txState := rfl
@[simp] theorem State.setTxq_txBuf (s : State) (ch : Nat) (q : List Byte) : (s.setTxq ch q).txBuf = s.txBuf := rfl
@[simp] theorem State.setTxq_txPos (s : State) (ch : Nat) (q : List Byte) : (s.setTxq ch q).txPos = s.txPos := rfl
@[simp] theorem State.setTxq_txOwner (s : State) (ch : Nat) (q : List Byte) :
    (s.setTxq ch q).txOwner = s.txOwner := rfl
@[simp] theorem State.setTxq_srvEn (s : State) (ch : Nat) (q : List Byte) : (s.setTxq ch q).srvEn = s.srvEn := rfl
@[simp] theorem State.setTxq_srvState (s : State) (ch : Nat) (q : List Byte) :
    (s.setTxq ch q).srvState = s.srvState := rfl
@[simp] theorem State.setTxq_pp (s : State) (ch : Nat) (q : List Byte) : (s.setTxq ch q).pp = s.pp := rfl
@[simp] theorem State.setTxq_replyBuf (s : State) (ch : Nat) (q : List Byte) :
    (s.setTxq ch q).replyBuf = s.replyBuf := rfl
@[simp] theorem State.setTxq_need (s : State) (ch : Nat) (q : List Byte) : (s.setTxq ch q).need = s.need := rfl
@[simp] theorem State.setTxq_abort (s : State) (ch : Nat) (q : List Byte) : (s.setTxq ch q).abort = s.abort := rfl
@[simp] theorem State.setTxq_tunnelSeen (s : State) (ch : Nat) (q : List Byte) :
    (s.setTxq ch q).tunnelSeen = s.tunnelSeen := rfl
@[simp] theorem State.setTxq_nodeId (s : State) (ch : Nat) (q : List Byte) : (s.setTxq ch q).nodeId = s.nodeId := rfl
@[simp] theorem State.setTxq_stats (s : State) (ch : Nat) (q : List Byte) : (s.setTxq ch q).stats = s.stats := rfl
@[simp] theorem State.setTxq_fault (s : State) (ch : Nat) (q : List Byte) : (s.setTxq ch q).fault = s.fault := rfl
@[simp] theorem State.setTxq_tunnels (s : State) (ch : Nat) (q : List Byte) :
    (s.setTxq ch q).tunnels = s.tunnels.map (fun t => if t.id.toNat = ch then { t with txq := q } else t) := rfl
@[simp] theorem State.setTxq_rqBuf (s : State) (ch : Nat) (q : List Byte) : (s.setTxq ch q).rqBuf = s.rqBuf := rfl
@[simp] theorem State.setTxq_rqRr (s : State) (ch : Nat) (q : List Byte) : (s.setTxq ch q).rqRr = s.rqRr := rfl
@[simp] theorem State.setTxq_rpMap (s : State) (ch : Nat) (q : List Byte) : (s.setTxq ch q).rpMap = s.rpMap := rfl
@[simp] theorem State.setTxq_rpUsed (s : State) (ch : Nat) (q : List Byte) : (s.setTxq ch q).rpUsed = s.rpUsed := rfl
@[simp] theorem State.setTxq_storeLog (s : State) (ch : Nat) (q : List Byte) :
    (s.setTxq ch q).storeLog = s.storeLog := rfl
@[simp] theorem State.setTxq_parser (s : State) (ch : Nat) (q : List Byte) : (s.setTxq ch q).parser = s.parser := rfl
@[simp] theorem State.setTxq_rpPayload (s : State) (ch : Nat) (q : List Byte) :
    (s.setTxq ch q).rpPayload = s.rpPayload := rfl
@[simp] theorem State.setTxq_rpPos (s : State) (ch : Nat) (q : List Byte) : (s.setTxq ch q).rpPos = s.rpPos := rfl
@[simp] theorem State.setTxq_result (s : State) (ch : Nat) (q : List Byte) : (s.setTxq ch q).result = s.result := rfl
@[simp] theorem State.setTxq_completion (s : State) (ch : Nat) (q : List Byte) :
    (s.setTxq ch q).completion = s.completion := rfl
@[simp] theorem State.setTxq_offers (s : State) (ch : Nat) (q : List Byte) : (s.setTxq ch q).offers = s.offers := rfl
@[simp] theorem State.setTxq_sched (s : State) (ch : Nat) (q : List Byte) : (s.setTxq ch q).sched = s.sched := rfl

/-! `State.setVd`: only the decoder's registers and the result change. -/

@[simp] theorem State.setVd_cfg (s : State) (r : VdRegs) : (s.setVd r).cfg = s.cfg := rfl
@[simp] theorem State.setVd_crcReg (s : State) (r : VdRegs) : (s.setVd r).crcReg = s.crcReg := rfl
@[simp] theorem State.setVd_vdAcc (s : State) (r : VdRegs) : (s.setVd r).vdAcc = r.acc := rfl
@[simp] theorem State.setVd_vdCnt (s : State) (r : VdRegs) : (s.setVd r).vdCnt = r.cnt := rfl
@[simp] theorem State.setVd_vdSt (s : State) (r : VdRegs) : (s.setVd r).vdSt = r.st := rfl
@[simp] theorem State.setVd_rxBuf (s : State) (r : VdRegs) : (s.setVd r).rxBuf = s.rxBuf := rfl
@[simp] theorem State.setVd_rxState (s : State) (r : VdRegs) : (s.setVd r).rxState = s.rxState := rfl
@[simp] theorem State.setVd_rxCap (s : State) (r : VdRegs) : (s.setVd r).rxCap = s.rxCap := rfl
@[simp] theorem State.setVd_rxOwner (s : State) (r : VdRegs) : (s.setVd r).rxOwner = s.rxOwner := rfl
@[simp] theorem State.setVd_rxfSrc (s : State) (r : VdRegs) : (s.setVd r).rxfSrc = s.rxfSrc := rfl
@[simp] theorem State.setVd_rxfRr (s : State) (r : VdRegs) : (s.setVd r).rxfRr = s.rxfRr := rfl
@[simp] theorem State.setVd_rxfDst (s : State) (r : VdRegs) : (s.setVd r).rxfDst = s.rxfDst := rfl
@[simp] theorem State.setVd_rxfLen (s : State) (r : VdRegs) : (s.setVd r).rxfLen = s.rxfLen := rfl
@[simp] theorem State.setVd_rxfPayload (s : State) (r : VdRegs) : (s.setVd r).rxfPayload = s.rxfPayload := rfl
@[simp] theorem State.setVd_rxfTrunc (s : State) (r : VdRegs) : (s.setVd r).rxfTrunc = s.rxfTrunc := rfl
@[simp] theorem State.setVd_txState (s : State) (r : VdRegs) : (s.setVd r).txState = s.txState := rfl
@[simp] theorem State.setVd_txBuf (s : State) (r : VdRegs) : (s.setVd r).txBuf = s.txBuf := rfl
@[simp] theorem State.setVd_txPos (s : State) (r : VdRegs) : (s.setVd r).txPos = s.txPos := rfl
@[simp] theorem State.setVd_txOwner (s : State) (r : VdRegs) : (s.setVd r).txOwner = s.txOwner := rfl
@[simp] theorem State.setVd_srvEn (s : State) (r : VdRegs) : (s.setVd r).srvEn = s.srvEn := rfl
@[simp] theorem State.setVd_srvState (s : State) (r : VdRegs) : (s.setVd r).srvState = s.srvState := rfl
@[simp] theorem State.setVd_pp (s : State) (r : VdRegs) : (s.setVd r).pp = s.pp := rfl
@[simp] theorem State.setVd_replyBuf (s : State) (r : VdRegs) : (s.setVd r).replyBuf = s.replyBuf := rfl
@[simp] theorem State.setVd_need (s : State) (r : VdRegs) : (s.setVd r).need = s.need := rfl
@[simp] theorem State.setVd_abort (s : State) (r : VdRegs) : (s.setVd r).abort = s.abort := rfl
@[simp] theorem State.setVd_tunnelSeen (s : State) (r : VdRegs) : (s.setVd r).tunnelSeen = s.tunnelSeen := rfl
@[simp] theorem State.setVd_nodeId (s : State) (r : VdRegs) : (s.setVd r).nodeId = s.nodeId := rfl
@[simp] theorem State.setVd_stats (s : State) (r : VdRegs) : (s.setVd r).stats = s.stats := rfl
@[simp] theorem State.setVd_fault (s : State) (r : VdRegs) : (s.setVd r).fault = s.fault := rfl
@[simp] theorem State.setVd_tunnels (s : State) (r : VdRegs) : (s.setVd r).tunnels = s.tunnels := rfl
@[simp] theorem State.setVd_rqBuf (s : State) (r : VdRegs) : (s.setVd r).rqBuf = s.rqBuf := rfl
@[simp] theorem State.setVd_rqRr (s : State) (r : VdRegs) : (s.setVd r).rqRr = s.rqRr := rfl
@[simp] theorem State.setVd_rpMap (s : State) (r : VdRegs) : (s.setVd r).rpMap = s.rpMap := rfl
@[simp] theorem State.setVd_rpUsed (s : State) (r : VdRegs) : (s.setVd r).rpUsed = s.rpUsed := rfl
@[simp] theorem State.setVd_storeLog (s : State) (r : VdRegs) : (s.setVd r).storeLog = s.storeLog := rfl
@[simp] theorem State.setVd_parser (s : State) (r : VdRegs) : (s.setVd r).parser = s.parser := rfl
@[simp] theorem State.setVd_rpPayload (s : State) (r : VdRegs) : (s.setVd r).rpPayload = s.rpPayload := rfl
@[simp] theorem State.setVd_rpPos (s : State) (r : VdRegs) : (s.setVd r).rpPos = s.rpPos := rfl
@[simp] theorem State.setVd_result (s : State) (r : VdRegs) : (s.setVd r).result = .varint r.st r.acc r.cnt := rfl
@[simp] theorem State.setVd_completion (s : State) (r : VdRegs) : (s.setVd r).completion = s.completion := rfl
@[simp] theorem State.setVd_offers (s : State) (r : VdRegs) : (s.setVd r).offers = s.offers := rfl
@[simp] theorem State.setVd_sched (s : State) (r : VdRegs) : (s.setVd r).sched = s.sched := rfl

/-! `unknownSub`: a count and the abort. -/

@[simp] theorem unknownSub_cfg (s : State) : (unknownSub s).cfg = s.cfg := rfl
@[simp] theorem unknownSub_crcReg (s : State) : (unknownSub s).crcReg = s.crcReg := rfl
@[simp] theorem unknownSub_vdAcc (s : State) : (unknownSub s).vdAcc = s.vdAcc := rfl
@[simp] theorem unknownSub_vdCnt (s : State) : (unknownSub s).vdCnt = s.vdCnt := rfl
@[simp] theorem unknownSub_vdSt (s : State) : (unknownSub s).vdSt = s.vdSt := rfl
@[simp] theorem unknownSub_rxBuf (s : State) : (unknownSub s).rxBuf = s.rxBuf := rfl
@[simp] theorem unknownSub_rxState (s : State) : (unknownSub s).rxState = s.rxState := rfl
@[simp] theorem unknownSub_rxCap (s : State) : (unknownSub s).rxCap = s.rxCap := rfl
@[simp] theorem unknownSub_rxOwner (s : State) : (unknownSub s).rxOwner = s.rxOwner := rfl
@[simp] theorem unknownSub_rxfSrc (s : State) : (unknownSub s).rxfSrc = s.rxfSrc := rfl
@[simp] theorem unknownSub_rxfRr (s : State) : (unknownSub s).rxfRr = s.rxfRr := rfl
@[simp] theorem unknownSub_rxfDst (s : State) : (unknownSub s).rxfDst = s.rxfDst := rfl
@[simp] theorem unknownSub_rxfLen (s : State) : (unknownSub s).rxfLen = s.rxfLen := rfl
@[simp] theorem unknownSub_rxfPayload (s : State) : (unknownSub s).rxfPayload = s.rxfPayload := rfl
@[simp] theorem unknownSub_rxfTrunc (s : State) : (unknownSub s).rxfTrunc = s.rxfTrunc := rfl
@[simp] theorem unknownSub_txState (s : State) : (unknownSub s).txState = s.txState := rfl
@[simp] theorem unknownSub_txBuf (s : State) : (unknownSub s).txBuf = s.txBuf := rfl
@[simp] theorem unknownSub_txPos (s : State) : (unknownSub s).txPos = s.txPos := rfl
@[simp] theorem unknownSub_txOwner (s : State) : (unknownSub s).txOwner = s.txOwner := rfl
@[simp] theorem unknownSub_srvEn (s : State) : (unknownSub s).srvEn = s.srvEn := rfl
@[simp] theorem unknownSub_srvState (s : State) : (unknownSub s).srvState = s.srvState := rfl
@[simp] theorem unknownSub_pp (s : State) : (unknownSub s).pp = s.pp := rfl
@[simp] theorem unknownSub_replyBuf (s : State) : (unknownSub s).replyBuf = s.replyBuf := rfl
@[simp] theorem unknownSub_need (s : State) : (unknownSub s).need = s.need := rfl
@[simp] theorem unknownSub_abort (s : State) : (unknownSub s).abort = true := rfl
@[simp] theorem unknownSub_tunnelSeen (s : State) : (unknownSub s).tunnelSeen = s.tunnelSeen := rfl
@[simp] theorem unknownSub_nodeId (s : State) : (unknownSub s).nodeId = s.nodeId := rfl
@[simp] theorem unknownSub_stats (s : State) :
    (unknownSub s).stats = s.stats.bump s.cfg.statsWidth .unknownSubframe := rfl
@[simp] theorem unknownSub_fault (s : State) : (unknownSub s).fault = s.fault := rfl
@[simp] theorem unknownSub_tunnels (s : State) : (unknownSub s).tunnels = s.tunnels := rfl
@[simp] theorem unknownSub_rqBuf (s : State) : (unknownSub s).rqBuf = s.rqBuf := rfl
@[simp] theorem unknownSub_rqRr (s : State) : (unknownSub s).rqRr = s.rqRr := rfl
@[simp] theorem unknownSub_rpMap (s : State) : (unknownSub s).rpMap = s.rpMap := rfl
@[simp] theorem unknownSub_rpUsed (s : State) : (unknownSub s).rpUsed = s.rpUsed := rfl
@[simp] theorem unknownSub_storeLog (s : State) : (unknownSub s).storeLog = s.storeLog := rfl
@[simp] theorem unknownSub_parser (s : State) : (unknownSub s).parser = s.parser := rfl
@[simp] theorem unknownSub_rpPayload (s : State) : (unknownSub s).rpPayload = s.rpPayload := rfl
@[simp] theorem unknownSub_rpPos (s : State) : (unknownSub s).rpPos = s.rpPos := rfl
@[simp] theorem unknownSub_result (s : State) : (unknownSub s).result = s.result := rfl
@[simp] theorem unknownSub_completion (s : State) : (unknownSub s).completion = s.completion := rfl
@[simp] theorem unknownSub_offers (s : State) : (unknownSub s).offers = s.offers := rfl
@[simp] theorem unknownSub_sched (s : State) : (unknownSub s).sched = s.sched := rfl

/-! `malformedSub`: a count and the abort. -/

@[simp] theorem malformedSub_cfg (s : State) : (malformedSub s).cfg = s.cfg := rfl
@[simp] theorem malformedSub_crcReg (s : State) : (malformedSub s).crcReg = s.crcReg := rfl
@[simp] theorem malformedSub_vdAcc (s : State) : (malformedSub s).vdAcc = s.vdAcc := rfl
@[simp] theorem malformedSub_vdCnt (s : State) : (malformedSub s).vdCnt = s.vdCnt := rfl
@[simp] theorem malformedSub_vdSt (s : State) : (malformedSub s).vdSt = s.vdSt := rfl
@[simp] theorem malformedSub_rxBuf (s : State) : (malformedSub s).rxBuf = s.rxBuf := rfl
@[simp] theorem malformedSub_rxState (s : State) : (malformedSub s).rxState = s.rxState := rfl
@[simp] theorem malformedSub_rxCap (s : State) : (malformedSub s).rxCap = s.rxCap := rfl
@[simp] theorem malformedSub_rxOwner (s : State) : (malformedSub s).rxOwner = s.rxOwner := rfl
@[simp] theorem malformedSub_rxfSrc (s : State) : (malformedSub s).rxfSrc = s.rxfSrc := rfl
@[simp] theorem malformedSub_rxfRr (s : State) : (malformedSub s).rxfRr = s.rxfRr := rfl
@[simp] theorem malformedSub_rxfDst (s : State) : (malformedSub s).rxfDst = s.rxfDst := rfl
@[simp] theorem malformedSub_rxfLen (s : State) : (malformedSub s).rxfLen = s.rxfLen := rfl
@[simp] theorem malformedSub_rxfPayload (s : State) : (malformedSub s).rxfPayload = s.rxfPayload := rfl
@[simp] theorem malformedSub_rxfTrunc (s : State) : (malformedSub s).rxfTrunc = s.rxfTrunc := rfl
@[simp] theorem malformedSub_txState (s : State) : (malformedSub s).txState = s.txState := rfl
@[simp] theorem malformedSub_txBuf (s : State) : (malformedSub s).txBuf = s.txBuf := rfl
@[simp] theorem malformedSub_txPos (s : State) : (malformedSub s).txPos = s.txPos := rfl
@[simp] theorem malformedSub_txOwner (s : State) : (malformedSub s).txOwner = s.txOwner := rfl
@[simp] theorem malformedSub_srvEn (s : State) : (malformedSub s).srvEn = s.srvEn := rfl
@[simp] theorem malformedSub_srvState (s : State) : (malformedSub s).srvState = s.srvState := rfl
@[simp] theorem malformedSub_pp (s : State) : (malformedSub s).pp = s.pp := rfl
@[simp] theorem malformedSub_replyBuf (s : State) : (malformedSub s).replyBuf = s.replyBuf := rfl
@[simp] theorem malformedSub_need (s : State) : (malformedSub s).need = s.need := rfl
@[simp] theorem malformedSub_abort (s : State) : (malformedSub s).abort = true := rfl
@[simp] theorem malformedSub_tunnelSeen (s : State) : (malformedSub s).tunnelSeen = s.tunnelSeen := rfl
@[simp] theorem malformedSub_nodeId (s : State) : (malformedSub s).nodeId = s.nodeId := rfl
@[simp] theorem malformedSub_stats (s : State) :
    (malformedSub s).stats = s.stats.bump s.cfg.statsWidth .malformedSubframe := rfl
@[simp] theorem malformedSub_fault (s : State) : (malformedSub s).fault = s.fault := rfl
@[simp] theorem malformedSub_tunnels (s : State) : (malformedSub s).tunnels = s.tunnels := rfl
@[simp] theorem malformedSub_rqBuf (s : State) : (malformedSub s).rqBuf = s.rqBuf := rfl
@[simp] theorem malformedSub_rqRr (s : State) : (malformedSub s).rqRr = s.rqRr := rfl
@[simp] theorem malformedSub_rpMap (s : State) : (malformedSub s).rpMap = s.rpMap := rfl
@[simp] theorem malformedSub_rpUsed (s : State) : (malformedSub s).rpUsed = s.rpUsed := rfl
@[simp] theorem malformedSub_storeLog (s : State) : (malformedSub s).storeLog = s.storeLog := rfl
@[simp] theorem malformedSub_parser (s : State) : (malformedSub s).parser = s.parser := rfl
@[simp] theorem malformedSub_rpPayload (s : State) : (malformedSub s).rpPayload = s.rpPayload := rfl
@[simp] theorem malformedSub_rpPos (s : State) : (malformedSub s).rpPos = s.rpPos := rfl
@[simp] theorem malformedSub_result (s : State) : (malformedSub s).result = s.result := rfl
@[simp] theorem malformedSub_completion (s : State) : (malformedSub s).completion = s.completion := rfl
@[simp] theorem malformedSub_offers (s : State) : (malformedSub s).offers = s.offers := rfl
@[simp] theorem malformedSub_sched (s : State) : (malformedSub s).sched = s.sched := rfl

/-! `recordReads`: only the record of store calls changes. -/

@[simp] theorem recordReads_cfg (t : VType) (g : Word) (k : Nat) (s : State) :
    (recordReads t g k s).cfg = s.cfg := rfl
@[simp] theorem recordReads_crcReg (t : VType) (g : Word) (k : Nat) (s : State) :
    (recordReads t g k s).crcReg = s.crcReg := rfl
@[simp] theorem recordReads_vdAcc (t : VType) (g : Word) (k : Nat) (s : State) :
    (recordReads t g k s).vdAcc = s.vdAcc := rfl
@[simp] theorem recordReads_vdCnt (t : VType) (g : Word) (k : Nat) (s : State) :
    (recordReads t g k s).vdCnt = s.vdCnt := rfl
@[simp] theorem recordReads_vdSt (t : VType) (g : Word) (k : Nat) (s : State) :
    (recordReads t g k s).vdSt = s.vdSt := rfl
@[simp] theorem recordReads_rxBuf (t : VType) (g : Word) (k : Nat) (s : State) :
    (recordReads t g k s).rxBuf = s.rxBuf := rfl
@[simp] theorem recordReads_rxState (t : VType) (g : Word) (k : Nat) (s : State) :
    (recordReads t g k s).rxState = s.rxState := rfl
@[simp] theorem recordReads_rxCap (t : VType) (g : Word) (k : Nat) (s : State) :
    (recordReads t g k s).rxCap = s.rxCap := rfl
@[simp] theorem recordReads_rxOwner (t : VType) (g : Word) (k : Nat) (s : State) :
    (recordReads t g k s).rxOwner = s.rxOwner := rfl
@[simp] theorem recordReads_rxfSrc (t : VType) (g : Word) (k : Nat) (s : State) :
    (recordReads t g k s).rxfSrc = s.rxfSrc := rfl
@[simp] theorem recordReads_rxfRr (t : VType) (g : Word) (k : Nat) (s : State) :
    (recordReads t g k s).rxfRr = s.rxfRr := rfl
@[simp] theorem recordReads_rxfDst (t : VType) (g : Word) (k : Nat) (s : State) :
    (recordReads t g k s).rxfDst = s.rxfDst := rfl
@[simp] theorem recordReads_rxfLen (t : VType) (g : Word) (k : Nat) (s : State) :
    (recordReads t g k s).rxfLen = s.rxfLen := rfl
@[simp] theorem recordReads_rxfPayload (t : VType) (g : Word) (k : Nat) (s : State) :
    (recordReads t g k s).rxfPayload = s.rxfPayload := rfl
@[simp] theorem recordReads_rxfTrunc (t : VType) (g : Word) (k : Nat) (s : State) :
    (recordReads t g k s).rxfTrunc = s.rxfTrunc := rfl
@[simp] theorem recordReads_txState (t : VType) (g : Word) (k : Nat) (s : State) :
    (recordReads t g k s).txState = s.txState := rfl
@[simp] theorem recordReads_txBuf (t : VType) (g : Word) (k : Nat) (s : State) :
    (recordReads t g k s).txBuf = s.txBuf := rfl
@[simp] theorem recordReads_txPos (t : VType) (g : Word) (k : Nat) (s : State) :
    (recordReads t g k s).txPos = s.txPos := rfl
@[simp] theorem recordReads_txOwner (t : VType) (g : Word) (k : Nat) (s : State) :
    (recordReads t g k s).txOwner = s.txOwner := rfl
@[simp] theorem recordReads_srvEn (t : VType) (g : Word) (k : Nat) (s : State) :
    (recordReads t g k s).srvEn = s.srvEn := rfl
@[simp] theorem recordReads_srvState (t : VType) (g : Word) (k : Nat) (s : State) :
    (recordReads t g k s).srvState = s.srvState := rfl
@[simp] theorem recordReads_pp (t : VType) (g : Word) (k : Nat) (s : State) : (recordReads t g k s).pp = s.pp := rfl
@[simp] theorem recordReads_replyBuf (t : VType) (g : Word) (k : Nat) (s : State) :
    (recordReads t g k s).replyBuf = s.replyBuf := rfl
@[simp] theorem recordReads_need (t : VType) (g : Word) (k : Nat) (s : State) :
    (recordReads t g k s).need = s.need := rfl
@[simp] theorem recordReads_abort (t : VType) (g : Word) (k : Nat) (s : State) :
    (recordReads t g k s).abort = s.abort := rfl
@[simp] theorem recordReads_tunnelSeen (t : VType) (g : Word) (k : Nat) (s : State) :
    (recordReads t g k s).tunnelSeen = s.tunnelSeen := rfl
@[simp] theorem recordReads_nodeId (t : VType) (g : Word) (k : Nat) (s : State) :
    (recordReads t g k s).nodeId = s.nodeId := rfl
@[simp] theorem recordReads_stats (t : VType) (g : Word) (k : Nat) (s : State) :
    (recordReads t g k s).stats = s.stats := rfl
@[simp] theorem recordReads_fault (t : VType) (g : Word) (k : Nat) (s : State) :
    (recordReads t g k s).fault = s.fault := rfl
@[simp] theorem recordReads_tunnels (t : VType) (g : Word) (k : Nat) (s : State) :
    (recordReads t g k s).tunnels = s.tunnels := rfl
@[simp] theorem recordReads_rqBuf (t : VType) (g : Word) (k : Nat) (s : State) :
    (recordReads t g k s).rqBuf = s.rqBuf := rfl
@[simp] theorem recordReads_rqRr (t : VType) (g : Word) (k : Nat) (s : State) :
    (recordReads t g k s).rqRr = s.rqRr := rfl
@[simp] theorem recordReads_rpMap (t : VType) (g : Word) (k : Nat) (s : State) :
    (recordReads t g k s).rpMap = s.rpMap := rfl
@[simp] theorem recordReads_rpUsed (t : VType) (g : Word) (k : Nat) (s : State) :
    (recordReads t g k s).rpUsed = s.rpUsed := rfl
@[simp] theorem recordReads_storeLog (t : VType) (g : Word) (k : Nat) (s : State) :
    (recordReads t g k s).storeLog = s.storeLog ++ readCalls t g k := rfl
@[simp] theorem recordReads_parser (t : VType) (g : Word) (k : Nat) (s : State) :
    (recordReads t g k s).parser = s.parser := rfl
@[simp] theorem recordReads_rpPayload (t : VType) (g : Word) (k : Nat) (s : State) :
    (recordReads t g k s).rpPayload = s.rpPayload := rfl
@[simp] theorem recordReads_rpPos (t : VType) (g : Word) (k : Nat) (s : State) :
    (recordReads t g k s).rpPos = s.rpPos := rfl
@[simp] theorem recordReads_result (t : VType) (g : Word) (k : Nat) (s : State) :
    (recordReads t g k s).result = s.result := rfl
@[simp] theorem recordReads_completion (t : VType) (g : Word) (k : Nat) (s : State) :
    (recordReads t g k s).completion = s.completion := rfl
@[simp] theorem recordReads_offers (t : VType) (g : Word) (k : Nat) (s : State) :
    (recordReads t g k s).offers = s.offers := rfl
@[simp] theorem recordReads_sched (t : VType) (g : Word) (k : Nat) (s : State) :
    (recordReads t g k s).sched = s.sched := rfl

/-! `replyStop`: only the parser's state changes. -/

@[simp] theorem replyStop_cfg (s : State) : (replyStop s).cfg = s.cfg := rfl
@[simp] theorem replyStop_crcReg (s : State) : (replyStop s).crcReg = s.crcReg := rfl
@[simp] theorem replyStop_vdAcc (s : State) : (replyStop s).vdAcc = s.vdAcc := rfl
@[simp] theorem replyStop_vdCnt (s : State) : (replyStop s).vdCnt = s.vdCnt := rfl
@[simp] theorem replyStop_vdSt (s : State) : (replyStop s).vdSt = s.vdSt := rfl
@[simp] theorem replyStop_rxBuf (s : State) : (replyStop s).rxBuf = s.rxBuf := rfl
@[simp] theorem replyStop_rxState (s : State) : (replyStop s).rxState = s.rxState := rfl
@[simp] theorem replyStop_rxCap (s : State) : (replyStop s).rxCap = s.rxCap := rfl
@[simp] theorem replyStop_rxOwner (s : State) : (replyStop s).rxOwner = s.rxOwner := rfl
@[simp] theorem replyStop_rxfSrc (s : State) : (replyStop s).rxfSrc = s.rxfSrc := rfl
@[simp] theorem replyStop_rxfRr (s : State) : (replyStop s).rxfRr = s.rxfRr := rfl
@[simp] theorem replyStop_rxfDst (s : State) : (replyStop s).rxfDst = s.rxfDst := rfl
@[simp] theorem replyStop_rxfLen (s : State) : (replyStop s).rxfLen = s.rxfLen := rfl
@[simp] theorem replyStop_rxfPayload (s : State) : (replyStop s).rxfPayload = s.rxfPayload := rfl
@[simp] theorem replyStop_rxfTrunc (s : State) : (replyStop s).rxfTrunc = s.rxfTrunc := rfl
@[simp] theorem replyStop_txState (s : State) : (replyStop s).txState = s.txState := rfl
@[simp] theorem replyStop_txBuf (s : State) : (replyStop s).txBuf = s.txBuf := rfl
@[simp] theorem replyStop_txPos (s : State) : (replyStop s).txPos = s.txPos := rfl
@[simp] theorem replyStop_txOwner (s : State) : (replyStop s).txOwner = s.txOwner := rfl
@[simp] theorem replyStop_srvEn (s : State) : (replyStop s).srvEn = s.srvEn := rfl
@[simp] theorem replyStop_srvState (s : State) : (replyStop s).srvState = s.srvState := rfl
@[simp] theorem replyStop_pp (s : State) : (replyStop s).pp = s.pp := rfl
@[simp] theorem replyStop_replyBuf (s : State) : (replyStop s).replyBuf = s.replyBuf := rfl
@[simp] theorem replyStop_need (s : State) : (replyStop s).need = s.need := rfl
@[simp] theorem replyStop_abort (s : State) : (replyStop s).abort = s.abort := rfl
@[simp] theorem replyStop_tunnelSeen (s : State) : (replyStop s).tunnelSeen = s.tunnelSeen := rfl
@[simp] theorem replyStop_nodeId (s : State) : (replyStop s).nodeId = s.nodeId := rfl
@[simp] theorem replyStop_stats (s : State) : (replyStop s).stats = s.stats := rfl
@[simp] theorem replyStop_fault (s : State) : (replyStop s).fault = s.fault := rfl
@[simp] theorem replyStop_tunnels (s : State) : (replyStop s).tunnels = s.tunnels := rfl
@[simp] theorem replyStop_rqBuf (s : State) : (replyStop s).rqBuf = s.rqBuf := rfl
@[simp] theorem replyStop_rqRr (s : State) : (replyStop s).rqRr = s.rqRr := rfl
@[simp] theorem replyStop_rpMap (s : State) : (replyStop s).rpMap = s.rpMap := rfl
@[simp] theorem replyStop_rpUsed (s : State) : (replyStop s).rpUsed = s.rpUsed := rfl
@[simp] theorem replyStop_storeLog (s : State) : (replyStop s).storeLog = s.storeLog := rfl
@[simp] theorem replyStop_parser (s : State) : (replyStop s).parser = .replyEnded := rfl
@[simp] theorem replyStop_rpPayload (s : State) : (replyStop s).rpPayload = s.rpPayload := rfl
@[simp] theorem replyStop_rpPos (s : State) : (replyStop s).rpPos = s.rpPos := rfl
@[simp] theorem replyStop_result (s : State) : (replyStop s).result = s.result := rfl
@[simp] theorem replyStop_completion (s : State) : (replyStop s).completion = s.completion := rfl
@[simp] theorem replyStop_offers (s : State) : (replyStop s).offers = s.offers := rfl
@[simp] theorem replyStop_sched (s : State) : (replyStop s).sched = s.sched := rfl

/-! `replyAdvance`: only the index and `RP_USED` change. -/

@[simp] theorem replyAdvance_cfg (n : Nat) (s : State) : (replyAdvance n s).cfg = s.cfg := rfl
@[simp] theorem replyAdvance_crcReg (n : Nat) (s : State) : (replyAdvance n s).crcReg = s.crcReg := rfl
@[simp] theorem replyAdvance_vdAcc (n : Nat) (s : State) : (replyAdvance n s).vdAcc = s.vdAcc := rfl
@[simp] theorem replyAdvance_vdCnt (n : Nat) (s : State) : (replyAdvance n s).vdCnt = s.vdCnt := rfl
@[simp] theorem replyAdvance_vdSt (n : Nat) (s : State) : (replyAdvance n s).vdSt = s.vdSt := rfl
@[simp] theorem replyAdvance_rxBuf (n : Nat) (s : State) : (replyAdvance n s).rxBuf = s.rxBuf := rfl
@[simp] theorem replyAdvance_rxState (n : Nat) (s : State) : (replyAdvance n s).rxState = s.rxState := rfl
@[simp] theorem replyAdvance_rxCap (n : Nat) (s : State) : (replyAdvance n s).rxCap = s.rxCap := rfl
@[simp] theorem replyAdvance_rxOwner (n : Nat) (s : State) : (replyAdvance n s).rxOwner = s.rxOwner := rfl
@[simp] theorem replyAdvance_rxfSrc (n : Nat) (s : State) : (replyAdvance n s).rxfSrc = s.rxfSrc := rfl
@[simp] theorem replyAdvance_rxfRr (n : Nat) (s : State) : (replyAdvance n s).rxfRr = s.rxfRr := rfl
@[simp] theorem replyAdvance_rxfDst (n : Nat) (s : State) : (replyAdvance n s).rxfDst = s.rxfDst := rfl
@[simp] theorem replyAdvance_rxfLen (n : Nat) (s : State) : (replyAdvance n s).rxfLen = s.rxfLen := rfl
@[simp] theorem replyAdvance_rxfPayload (n : Nat) (s : State) : (replyAdvance n s).rxfPayload = s.rxfPayload := rfl
@[simp] theorem replyAdvance_rxfTrunc (n : Nat) (s : State) : (replyAdvance n s).rxfTrunc = s.rxfTrunc := rfl
@[simp] theorem replyAdvance_txState (n : Nat) (s : State) : (replyAdvance n s).txState = s.txState := rfl
@[simp] theorem replyAdvance_txBuf (n : Nat) (s : State) : (replyAdvance n s).txBuf = s.txBuf := rfl
@[simp] theorem replyAdvance_txPos (n : Nat) (s : State) : (replyAdvance n s).txPos = s.txPos := rfl
@[simp] theorem replyAdvance_txOwner (n : Nat) (s : State) : (replyAdvance n s).txOwner = s.txOwner := rfl
@[simp] theorem replyAdvance_srvEn (n : Nat) (s : State) : (replyAdvance n s).srvEn = s.srvEn := rfl
@[simp] theorem replyAdvance_srvState (n : Nat) (s : State) : (replyAdvance n s).srvState = s.srvState := rfl
@[simp] theorem replyAdvance_pp (n : Nat) (s : State) : (replyAdvance n s).pp = s.pp := rfl
@[simp] theorem replyAdvance_replyBuf (n : Nat) (s : State) : (replyAdvance n s).replyBuf = s.replyBuf := rfl
@[simp] theorem replyAdvance_need (n : Nat) (s : State) : (replyAdvance n s).need = s.need := rfl
@[simp] theorem replyAdvance_abort (n : Nat) (s : State) : (replyAdvance n s).abort = s.abort := rfl
@[simp] theorem replyAdvance_tunnelSeen (n : Nat) (s : State) : (replyAdvance n s).tunnelSeen = s.tunnelSeen := rfl
@[simp] theorem replyAdvance_nodeId (n : Nat) (s : State) : (replyAdvance n s).nodeId = s.nodeId := rfl
@[simp] theorem replyAdvance_stats (n : Nat) (s : State) : (replyAdvance n s).stats = s.stats := rfl
@[simp] theorem replyAdvance_fault (n : Nat) (s : State) : (replyAdvance n s).fault = s.fault := rfl
@[simp] theorem replyAdvance_tunnels (n : Nat) (s : State) : (replyAdvance n s).tunnels = s.tunnels := rfl
@[simp] theorem replyAdvance_rqBuf (n : Nat) (s : State) : (replyAdvance n s).rqBuf = s.rqBuf := rfl
@[simp] theorem replyAdvance_rqRr (n : Nat) (s : State) : (replyAdvance n s).rqRr = s.rqRr := rfl
@[simp] theorem replyAdvance_rpMap (n : Nat) (s : State) : (replyAdvance n s).rpMap = s.rpMap := rfl
@[simp] theorem replyAdvance_rpUsed (n : Nat) (s : State) :
    (replyAdvance n s).rpUsed = BitVec.ofNat 32 (s.rpPos + n) := rfl
@[simp] theorem replyAdvance_storeLog (n : Nat) (s : State) : (replyAdvance n s).storeLog = s.storeLog := rfl
@[simp] theorem replyAdvance_parser (n : Nat) (s : State) : (replyAdvance n s).parser = s.parser := rfl
@[simp] theorem replyAdvance_rpPayload (n : Nat) (s : State) : (replyAdvance n s).rpPayload = s.rpPayload := rfl
@[simp] theorem replyAdvance_rpPos (n : Nat) (s : State) : (replyAdvance n s).rpPos = s.rpPos + n := rfl
@[simp] theorem replyAdvance_result (n : Nat) (s : State) : (replyAdvance n s).result = s.result := rfl
@[simp] theorem replyAdvance_completion (n : Nat) (s : State) : (replyAdvance n s).completion = s.completion := rfl
@[simp] theorem replyAdvance_offers (n : Nat) (s : State) : (replyAdvance n s).offers = s.offers := rfl
@[simp] theorem replyAdvance_sched (n : Nat) (s : State) : (replyAdvance n s).sched = s.sched := rfl

/-! `replyConclude`: the parser's locals are gone and the result is returned. -/

@[simp] theorem replyConclude_cfg (s : State) : (replyConclude s).cfg = s.cfg := rfl
@[simp] theorem replyConclude_crcReg (s : State) : (replyConclude s).crcReg = s.crcReg := rfl
@[simp] theorem replyConclude_vdAcc (s : State) : (replyConclude s).vdAcc = s.vdAcc := rfl
@[simp] theorem replyConclude_vdCnt (s : State) : (replyConclude s).vdCnt = s.vdCnt := rfl
@[simp] theorem replyConclude_vdSt (s : State) : (replyConclude s).vdSt = s.vdSt := rfl
@[simp] theorem replyConclude_rxBuf (s : State) : (replyConclude s).rxBuf = s.rxBuf := rfl
@[simp] theorem replyConclude_rxState (s : State) : (replyConclude s).rxState = s.rxState := rfl
@[simp] theorem replyConclude_rxCap (s : State) : (replyConclude s).rxCap = s.rxCap := rfl
@[simp] theorem replyConclude_rxOwner (s : State) : (replyConclude s).rxOwner = s.rxOwner := rfl
@[simp] theorem replyConclude_rxfSrc (s : State) : (replyConclude s).rxfSrc = s.rxfSrc := rfl
@[simp] theorem replyConclude_rxfRr (s : State) : (replyConclude s).rxfRr = s.rxfRr := rfl
@[simp] theorem replyConclude_rxfDst (s : State) : (replyConclude s).rxfDst = s.rxfDst := rfl
@[simp] theorem replyConclude_rxfLen (s : State) : (replyConclude s).rxfLen = s.rxfLen := rfl
@[simp] theorem replyConclude_rxfPayload (s : State) : (replyConclude s).rxfPayload = s.rxfPayload := rfl
@[simp] theorem replyConclude_rxfTrunc (s : State) : (replyConclude s).rxfTrunc = s.rxfTrunc := rfl
@[simp] theorem replyConclude_txState (s : State) : (replyConclude s).txState = s.txState := rfl
@[simp] theorem replyConclude_txBuf (s : State) : (replyConclude s).txBuf = s.txBuf := rfl
@[simp] theorem replyConclude_txPos (s : State) : (replyConclude s).txPos = s.txPos := rfl
@[simp] theorem replyConclude_txOwner (s : State) : (replyConclude s).txOwner = s.txOwner := rfl
@[simp] theorem replyConclude_srvEn (s : State) : (replyConclude s).srvEn = s.srvEn := rfl
@[simp] theorem replyConclude_srvState (s : State) : (replyConclude s).srvState = s.srvState := rfl
@[simp] theorem replyConclude_pp (s : State) : (replyConclude s).pp = s.pp := rfl
@[simp] theorem replyConclude_replyBuf (s : State) : (replyConclude s).replyBuf = s.replyBuf := rfl
@[simp] theorem replyConclude_need (s : State) : (replyConclude s).need = s.need := rfl
@[simp] theorem replyConclude_abort (s : State) : (replyConclude s).abort = s.abort := rfl
@[simp] theorem replyConclude_tunnelSeen (s : State) : (replyConclude s).tunnelSeen = s.tunnelSeen := rfl
@[simp] theorem replyConclude_nodeId (s : State) : (replyConclude s).nodeId = s.nodeId := rfl
@[simp] theorem replyConclude_stats (s : State) : (replyConclude s).stats = s.stats := rfl
@[simp] theorem replyConclude_fault (s : State) : (replyConclude s).fault = s.fault := rfl
@[simp] theorem replyConclude_tunnels (s : State) : (replyConclude s).tunnels = s.tunnels := rfl
@[simp] theorem replyConclude_rqBuf (s : State) : (replyConclude s).rqBuf = s.rqBuf := rfl
@[simp] theorem replyConclude_rqRr (s : State) : (replyConclude s).rqRr = s.rqRr := rfl
@[simp] theorem replyConclude_rpMap (s : State) : (replyConclude s).rpMap = s.rpMap := rfl
@[simp] theorem replyConclude_rpUsed (s : State) : (replyConclude s).rpUsed = s.rpUsed := rfl
@[simp] theorem replyConclude_storeLog (s : State) : (replyConclude s).storeLog = s.storeLog := rfl
@[simp] theorem replyConclude_parser (s : State) : (replyConclude s).parser = .none := rfl
@[simp] theorem replyConclude_rpPayload (s : State) : (replyConclude s).rpPayload = [] := rfl
@[simp] theorem replyConclude_rpPos (s : State) : (replyConclude s).rpPos = 0 := rfl
@[simp] theorem replyConclude_result (s : State) : (replyConclude s).result = .reply s.rpMap s.rpUsed := rfl
@[simp] theorem replyConclude_completion (s : State) : (replyConclude s).completion = s.completion := rfl
@[simp] theorem replyConclude_offers (s : State) : (replyConclude s).offers = s.offers := rfl
@[simp] theorem replyConclude_sched (s : State) : (replyConclude s).sched = s.sched := rfl

end Sys2Proof.Machine
end

