-- ==== Sys2Proof/Laws/Dispatch.lean ====
section
/-! SUPPORT. What a subframe met by the dispatch unit can change (45_dispatch R287 to R296, R333 to R336), said once for
each shared operation. -/

namespace Sys2Proof.Machine

/-- What the dispatch unit's operations may change: the working state of 10_state R29, the counters, the tunnel FIFOs
and the store's log; and the bounds they keep. -/
structure DispatchStep (s t : State) : Prop where
  frame : t = { s with
    pp := t.pp, replyBuf := t.replyBuf, need := t.need, abort := t.abort, tunnelSeen := t.tunnelSeen
    stats := t.stats, tunnels := t.tunnels, storeLog := t.storeLog }
  reply : s.replyBuf.length ≤ s.cfg.replyCap → t.replyBuf.length ≤ s.cfg.replyCap
  stats : s.statsOk → t.statsOk
  tunnels : s.tunnelsOk → t.tunnelsOk
  log : s.storeLog <+: t.storeLog

namespace DispatchStep

theorem cfg {s t : State} (h : DispatchStep s t) : t.cfg = s.cfg := by rw [h.frame]

theorem parser {s t : State} (h : DispatchStep s t) : t.parser = s.parser := by rw [h.frame]

theorem payload {s t : State} (h : DispatchStep s t) : t.payload = s.payload := by
  rw [h.frame]; rfl

theorem sendOk {s t : State} (h : DispatchStep s t) : t.sendOk = s.sendOk := by
  rw [h.frame]; rfl

theorem refl (s : State) : DispatchStep s s := ⟨rfl, id, id, id, List.prefix_refl _⟩

theorem trans {s t u : State} (h : DispatchStep s t) (k : DispatchStep t u) : DispatchStep s u where
  frame := by
    have h1 := h.frame
    have h2 := k.frame
    rw [h2, h1]
  reply := fun hr => by
    have := k.reply (by rw [h.cfg]; exact h.reply hr)
    rwa [h.cfg] at this
  stats := fun hs => k.stats (h.stats hs)
  tunnels := fun ht => k.tunnels (h.tunnels ht)
  log := h.log.trans k.log

end DispatchStep

/-- A count keeps every counter below its bound (10_state R31). -/
theorem bump_statsOk (s : State) (c : Counter) (h : s.statsOk) : (s.bump c).statsOk := by
  have hp : 0 < 2 ^ s.cfg.statsWidth := Nat.pos_of_ne_zero (by simp)
  obtain ⟨h1, h2, h3, h4, h5, h6, h7⟩ := h
  cases c <;>
    simp only [State.statsOk, State.bump, Stats.bump] <;>
    refine ⟨?_, ?_, ?_, ?_, ?_, ?_, ?_⟩ <;> first | assumption | exact Nat.mod_lt _ hp

/-- A count followed by any change of the other dispatch fields. -/
theorem DispatchStep.ofBump (s : State) (c : Counter) : DispatchStep s (s.bump c) :=
  ⟨rfl, id, bump_statsOk s c, id, List.prefix_refl _⟩

theorem DispatchStep.unknown (s : State) : DispatchStep s (unknownSub s) :=
  ⟨rfl, id, bump_statsOk s _, id, List.prefix_refl _⟩

theorem DispatchStep.malformed (s : State) : DispatchStep s (malformedSub s) :=
  ⟨rfl, id, bump_statsOk s _, id, List.prefix_refl _⟩

/-- Marks of a subframe: the pointer moves and the flags are set. -/
theorem DispatchStep.marks (s : State) (p : Nat) (n tn : Bool) :
    DispatchStep s { s with pp := p, need := n, tunnelSeen := tn } :=
  ⟨rfl, id, id, id, List.prefix_refl _⟩

/-- `append_reply` never exceeds `REPLY_CAP` (45_dispatch R290). -/
theorem DispatchStep.append (b : List Byte) (s : State) : DispatchStep s (appendReply b s) := by
  unfold appendReply
  split
  · exact ⟨rfl, id, bump_statsOk s _, id, List.prefix_refl _⟩
  · rename_i h
    refine ⟨rfl, fun _ => ?_, id, id, List.prefix_refl _⟩
    simp only [List.length_append]; omega

/-- The exact effect of `append_reply` when the subframe fits. -/
theorem appendReply_fits {b : List Byte} {s : State} (h : s.replyBuf.length + b.length ≤ s.cfg.replyCap) :
    appendReply b s = { s with replyBuf := s.replyBuf ++ b } := by
  unfold appendReply
  rw [if_neg (by omega)]

/-- The exact effect of `append_reply` when it does not. -/
theorem appendReply_full {b : List Byte} {s : State} (h : s.cfg.replyCap < s.replyBuf.length + b.length) :
    appendReply b s = { s.bump .missingSubframe with abort := true } := by
  unfold appendReply
  rw [if_pos h]

/-! ### Writes -/

theorem writesOf_nil (g : Word) : writesOf g [] = [] := rfl

theorem writesOf_cons (g : Word) (v : Value) (vs : List Value) :
    writesOf g (v :: vs) = ⟨g, v⟩ :: writesOf (g + 1#32) vs := by
  simp only [writesOf, List.zipIdx_cons, List.map_cons, BitVec.add_zero, List.cons.injEq]
  refine ⟨by simp, ?_⟩
  rw [List.zipIdx_succ]
  simp only [List.map_map]
  apply List.map_congr_left
  intro p _
  simp only [Function.comp, StoreWrite.mk.injEq, and_true]
  rw [show p.2 + 1 = 1 + p.2 by omega, BitVec.ofNat_add, BitVec.add_assoc]

@[simp] theorem madeWrites_append (cs ds : List StoreCall) :
    madeWrites (cs ++ ds) = madeWrites cs ++ madeWrites ds := List.filterMap_append

@[simp] theorem madeWrites_writes (ws : List StoreWrite) : madeWrites (ws.map .write) = ws := by
  induction ws with
  | nil => rfl
  | cons w ws ih => rw [List.map_cons, ← List.singleton_append, madeWrites_append, ih]; rfl

@[simp] theorem madeWrites_write (w : StoreWrite) : madeWrites [.write w] = [w] := rfl

/-- A read changes nothing that a later answer depends on (45_dispatch R282). -/
@[simp] theorem madeWrites_readCalls (t : VType) (g : Word) (k : Nat) : madeWrites (readCalls t g k) = [] := by
  simp [madeWrites, readCalls, List.filterMap_map]

/-- The calls of a write subframe and their errors, exactly (45_dispatch R295). -/
theorem storeWrites_eq (g : Word) (vs : List Value) (s : State) :
    storeWrites g vs s =
      ({ s with storeLog := s.storeLog ++ (writesOf g vs).map .write },
        errorsOf s.cfg.store (madeWrites s.storeLog) (writesOf g vs)) := by
  induction vs generalizing g s with
  | nil => simp [storeWrites, writesOf_nil, errorsOf]
  | cons v vs ih =>
    rw [writesOf_cons]
    simp only [storeWrites, storeWrite, ih, errorsOf]
    by_cases h : storeWriteAnswer s.cfg.store (madeWrites s.storeLog) ⟨g, v⟩ = 0#32 <;> simp [h]

theorem DispatchStep.errors (errs : List (Word × Word)) (s : State) : DispatchStep s (appendErrors errs s) := by
  induction errs generalizing s with
  | nil => exact .refl s
  | cons e errs ih =>
    obtain ⟨g, e⟩ := e
    simp only [appendErrors]
    have h1 : DispatchStep s (appendReply (subErr 0x30#8 g e) { s with need := true }) :=
      (DispatchStep.marks s s.pp true s.tunnelSeen).trans (.append _ _)
    split
    · exact h1
    · exact h1.trans (ih _)

/-- Calls of the store recorded in its log. -/
theorem DispatchStep.logged (s : State) (cs : List StoreCall) :
    DispatchStep s { s with storeLog := s.storeLog ++ cs } :=
  ⟨rfl, id, id, id, List.prefix_append _ _⟩

theorem DispatchStep.write (reg : Word) (vals : List Value) (size : Nat) (s : State) :
    DispatchStep s (writeOp reg vals size s) := by
  simp only [writeOp, storeWrites_eq]
  exact ((DispatchStep.logged s _).trans (.marks _ (s.pp + size) s.need s.tunnelSeen)).trans (.errors _ _)

/-! ### Reads -/

theorem DispatchStep.runs (t : VType) (fuel n : Nat) (g : Word) (s : State) :
    DispatchStep s (readRuns t fuel n g s) := by
  induction fuel generalizing n g s with
  | zero => exact .refl s
  | succ fuel ih =>
    simp only [readRuns]
    split
    · exact .refl s
    · split
      · exact (DispatchStep.append _ s).trans (.logged _ _)
      · exact ((DispatchStep.append _ s).trans (.logged _ _)).trans (ih _ _ _)

theorem DispatchStep.read (t : VType) (n : Nat) (reg : Word) (size : Nat) (s : State) :
    DispatchStep s (readOp t n reg size s) :=
  (DispatchStep.marks s (s.pp + size) true s.tunnelSeen).trans (.runs ..)

/-! ### Tunnels -/

/-- A channel's inbound FIFO set to at most its capacity. -/
theorem setRxq_tunnelsOk {s : State} {ch : Nat} {q : List Byte} (h : s.tunnelsOk)
    (hq : q.length ≤ s.cfg.tunnelRxCap) : (s.setRxq ch q).tunnelsOk := by
  obtain ⟨h1, h2⟩ := h
  refine ⟨?_, ?_⟩
  · simp only [State.setRxq_tunnels, State.setRxq_cfg, List.map_map]
    rw [← h1]
    apply List.map_congr_left
    intro t _
    simp only [Function.comp]
    split <;> rfl
  · intro t ht
    simp only [State.setRxq_tunnels, List.mem_map] at ht
    obtain ⟨u, hu, rfl⟩ := ht
    have := h2 u hu
    split
    · exact ⟨hq, this.2⟩
    · exact this

/-- A channel's outbound FIFO set to at most its capacity. -/
theorem setTxq_tunnelsOk {s : State} {ch : Nat} {q : List Byte} (h : s.tunnelsOk)
    (hq : q.length ≤ s.cfg.tunnelTxCap) : (s.setTxq ch q).tunnelsOk := by
  obtain ⟨h1, h2⟩ := h
  refine ⟨?_, ?_⟩
  · simp only [State.setTxq_tunnels, State.setTxq_cfg, List.map_map]
    rw [← h1]
    apply List.map_congr_left
    intro t _
    simp only [Function.comp]
    split <;> rfl
  · intro t ht
    simp only [State.setTxq_tunnels, List.mem_map] at ht
    obtain ⟨u, hu, rfl⟩ := ht
    have := h2 u hu
    split
    · exact ⟨this.1, hq⟩
    · exact this

theorem findTunnel_bound {ts : List Tunnel} {a b : Nat} (ch : Nat)
    (h : ∀ t ∈ ts, t.rxq.length ≤ a ∧ t.txq.length ≤ b) :
    (findTunnel ch ts).rxq.length ≤ a ∧ (findTunnel ch ts).txq.length ≤ b := by
  induction ts with
  | nil => simp [findTunnel]
  | cons t ts ih =>
    simp only [findTunnel]
    split
    · exact h t (by simp)
    · exact ih (fun u hu => h u (by simp [hu]))

/-- No FIFO read is longer than its capacity (10_state R37). -/
theorem rxq_bound {s : State} (h : s.tunnelsOk) (ch : Nat) : (s.rxq ch).length ≤ s.cfg.tunnelRxCap :=
  (findTunnel_bound ch h.2).1

theorem txq_bound {s : State} (h : s.tunnelsOk) (ch : Nat) : (s.txq ch).length ≤ s.cfg.tunnelTxCap :=
  (findTunnel_bound ch h.2).2

theorem DispatchStep.setTxq {s : State} {ch : Nat} {q : List Byte} (hq : q.length ≤ (s.txq ch).length) :
    DispatchStep s (s.setTxq ch q) :=
  ⟨rfl, id, id, fun h => setTxq_tunnelsOk h (hq.trans (txq_bound h ch)), List.prefix_refl _⟩

theorem DispatchStep.build (ch : Word) (lim : Option Nat) (s : State) : DispatchStep s (buildS2c ch lim s) := by
  unfold buildS2c
  split
  · exact .refl s
  · dsimp only
    split
    · exact ⟨rfl, id, bump_statsOk s _, id, List.prefix_refl _⟩
    · exact (DispatchStep.setTxq (by simp)).trans (.append _ _)

theorem DispatchStep.data (ch : Word) (d : List Byte) (size : Nat) (s : State) :
    DispatchStep s (tunnelData ch d size s) := by
  unfold tunnelData
  split
  · exact .unknown s
  · dsimp only
    refine DispatchStep.trans ?_ (.build _ _ _)
    have h1 : DispatchStep s (({ s with need := true, tunnelSeen := true, pp := s.pp + size } : State).setRxq ch.toNat
        (s.rxq ch.toNat ++ d.take (min d.length (s.cfg.tunnelRxCap - (s.rxq ch.toNat).length)))) := by
      refine ⟨rfl, id, id, fun h => setRxq_tunnelsOk (s := { s with need := true, tunnelSeen := true, pp := s.pp + size })
        h ?_, List.prefix_refl _⟩
      have := rxq_bound h ch.toNat
      simp only [List.length_append, List.length_take]; omega
    split
    · exact h1.trans (.ofBump _ _)
    · exact h1

theorem DispatchStep.poll (ch m : Word) (size : Nat) (s : State) : DispatchStep s (tunnelPoll ch m size s) := by
  unfold tunnelPoll
  split
  · exact .unknown s
  · exact (DispatchStep.marks s (s.pp + size) true true).trans (.build _ _ _)

/-! ### Short subframes -/

theorem DispatchStep.short (code : Byte) (rest : List Byte) (s : State) : DispatchStep s (shortSub code rest s) := by
  unfold shortSub
  split
  · unfold partialWrite
    split
    · exact .malformed s
    · dsimp only
      simp only [storeWrites_eq]
      exact ((DispatchStep.logged s _).trans (.errors _ _)).trans (.malformed _)
  · exact .malformed s

end Sys2Proof.Machine
end

