-- ==== Sys2Proof/Laws/Parse.lean ====
section
/-! SUPPORT. The meanings of the subframes by their operands, one pass of the dispatch unit's parse, and everything its
loop can do (45_dispatch R287, R288). -/

namespace Sys2Proof.Machine

/-! ### The parse pointer -/

@[simp] theorem appendReply_pp (b : List Byte) (s : State) : (appendReply b s).pp = s.pp := by
  unfold appendReply
  split <;> rfl

@[simp] theorem appendErrors_pp (errs : List (Word × Word)) (s : State) : (appendErrors errs s).pp = s.pp := by
  induction errs generalizing s with
  | nil => rfl
  | cons e errs ih =>
    obtain ⟨g, e⟩ := e
    simp only [appendErrors]
    split <;> simp [ih]

@[simp] theorem writeOp_pp (reg : Word) (vals : List Value) (size : Nat) (s : State) :
    (writeOp reg vals size s).pp = s.pp + size := by
  simp [writeOp, storeWrites_eq]

@[simp] theorem readRuns_pp (t : VType) (fuel n : Nat) (g : Word) (s : State) : (readRuns t fuel n g s).pp = s.pp := by
  induction fuel generalizing n g s with
  | zero => rfl
  | succ fuel ih =>
    simp only [readRuns]
    split
    · rfl
    · split <;> simp [ih]

@[simp] theorem readOp_pp (t : VType) (n : Nat) (reg : Word) (size : Nat) (s : State) :
    (readOp t n reg size s).pp = s.pp + size := by
  simp [readOp]

@[simp] theorem buildS2c_pp (ch : Word) (lim : Option Nat) (s : State) : (buildS2c ch lim s).pp = s.pp := by
  unfold buildS2c
  split
  · rfl
  · dsimp only
    split <;> simp

/-- A tunnel subframe moves the pointer past itself or ends the parse (45_dispatch R333). -/
theorem tunnelData_pp (ch : Word) (d : List Byte) (size : Nat) (s : State) :
    (tunnelData ch d size s).pp = s.pp + size ∨
      ((tunnelData ch d size s).pp = s.pp ∧ (tunnelData ch d size s).abort = true) := by
  unfold tunnelData
  split
  · exact .inr ⟨rfl, rfl⟩
  · refine .inl ?_
    dsimp only
    split <;> simp

/-- As `tunnelData_pp` (45_dispatch R334). -/
theorem tunnelPoll_pp (ch m : Word) (size : Nat) (s : State) :
    (tunnelPoll ch m size s).pp = s.pp + size ∨
      ((tunnelPoll ch m size s).pp = s.pp ∧ (tunnelPoll ch m size s).abort = true) := by
  unfold tunnelPoll
  split
  · exact .inr ⟨rfl, rfl⟩
  · exact .inl (by simp)

/-! ### The meanings by their operands -/

/-- The 16 write subframes are one operation on their register, values and length (45_dispatch R295). -/
theorem inner_write {i : Instr} {reg : Word} {vals : List Value} (h : i.writeView = some (reg, vals)) (s : State) :
    execInner i s = .next (s.inParser (writeOp reg vals i.size) replyStop) := by
  cases i <;> cases h <;> rfl

/-- The 16 read subframes (45_dispatch R296). -/
theorem inner_read {i : Instr} {t : VType} {n : Nat} {reg : Word} (h : i.readView = some (t, n, reg)) (s : State) :
    execInner i s = .next (s.inParser (readOp t n reg i.size) replyStop) := by
  cases i <;> cases h <;> rfl

/-- The 16 reply subframes (44_subframe_codec R225 to R240; 45_dispatch R291). -/
theorem inner_reply {i : Instr} {reg : Word} {vals : List Value} (h : i.replyView = some (reg, vals)) (s : State) :
    execInner i s = .next (s.inParser unknownSub (replyRun reg vals i.size)) := by
  cases i <;> cases h <;> rfl

/-- Inside a loop and as an instruction of its own, a frame or a subframe has one meaning. -/
theorem exec_eq_inner {i : Instr} (h : i.language = .frame ∨ i.language = .subframe) (s : State) :
    exec i s = execInner i s := by
  cases i <;> first | rfl | (rcases h with h | h <;> cases h)

/-- Every subframe is a write, a read, a reply, or one of the six others. -/
theorem subframe_kinds {i : Instr} (h : i.language = .subframe) :
    (∃ p, i.writeView = some p) ∨ (∃ p, i.readView = some p) ∨ (∃ p, i.replyView = some p) ∨
      (∃ r e, i = .writeError r e) ∨ (∃ r e, i = .readError r e) ∨ (∃ ch len d, i = .tunnelC2s ch len d) ∨
      (∃ ch len d, i = .tunnelS2c ch len d) ∨ (∃ ch m, i = .tunnelPoll ch m) ∨ i = .nop := by
  cases i <;> first
    | (cases h; done)
    | exact .inl ⟨_, rfl⟩
    | exact .inr (.inl ⟨_, rfl⟩)
    | exact .inr (.inr (.inl ⟨_, rfl⟩))
    | exact .inr (.inr (.inr (.inl ⟨_, _, rfl⟩)))
    | exact .inr (.inr (.inr (.inr (.inl ⟨_, _, rfl⟩))))
    | exact .inr (.inr (.inr (.inr (.inr (.inl ⟨_, _, _, rfl⟩)))))
    | exact .inr (.inr (.inr (.inr (.inr (.inr (.inl ⟨_, _, _, rfl⟩))))))
    | exact .inr (.inr (.inr (.inr (.inr (.inr (.inr (.inl ⟨_, _, rfl⟩)))))))
    | exact .inr (.inr (.inr (.inr (.inr (.inr (.inr (.inr rfl)))))))

/-- A decoded subframe is a subframe. -/
theorem decodeSub_language {c : Config} {s rest : List Byte} {i : Instr} (h : decodeSub c s = .ok (i, rest)) :
    i.language = .subframe := by
  have one : ∀ {mk : VarU → Instr} {c : Config} {s rest : List Byte} {i : Instr},
      (∀ a, (mk a).language = .subframe) → oneVar mk c s = .ok (i, rest) → i.language = .subframe := by
    intro mk c s rest i hk he
    unfold oneVar at he
    split at he <;> cases he
    exact hk _
  cases s with
  | nil => cases h
  | cons code s =>
    unfold decodeSub at h
    dsimp only at h
    split at h
    all_goals first
      | (cases h; done)
      | (cases h; rfl)
      | exact one (fun _ => rfl) h
      | (unfold twoVars at h; split at h; · cases h
         · exact one (fun _ => rfl) h)
      | (unfold runN at h; split at h; · cases h
         · split at h; · cases h
           · split at h <;> (cases h; try rfl))
      | (unfold run1 at h; split at h; · cases h
         · split at h <;> (cases h; try rfl))
      | (unfold run2 at h; split at h; · cases h
         · split at h <;> (cases h; try rfl))
      | (unfold run3 at h; split at h; · cases h
         · split at h <;> (cases h; try rfl))
      | (unfold dataForm at h; split at h; · cases h
         · split at h; · cases h
           · split at h <;> (cases h; try rfl))

/-- A subframe takes at least its code byte. -/
theorem size_pos {i : Instr} (h : i.language = .subframe) : 1 ≤ i.size := by
  cases i <;> first | (cases h; done) | (dsimp only [Instr.size]; omega)

/-- EVERYTHING A SUBFRAME CAN DO IN THE DISPATCH UNIT: it never stops; it changes only the working state, the counters, the
FIFOs and the store's log; and it moves `PP` past itself or sets `ABORT` (45_dispatch R288). -/
theorem inner_dispatch {i : Instr} (h : i.language = .subframe) {s : State} (hp : s.parser = .dispatch) :
    ∃ t, execInner i s = .next t ∧ DispatchStep s t ∧ (t.pp = s.pp + i.size ∨ (t.pp = s.pp ∧ t.abort = true)) := by
  have hin : ∀ a b, s.inParser a b = a s := by
    intro a b
    unfold State.inParser
    rw [hp]
  rcases subframe_kinds h with ⟨p, h⟩ | ⟨p, h⟩ | ⟨p, h⟩ | ⟨r, e, rfl⟩ | ⟨r, e, rfl⟩ | ⟨ch, l, d, rfl⟩ | ⟨ch, l, d, rfl⟩ |
    ⟨ch, m, rfl⟩ | rfl
  · exact ⟨_, by rw [inner_write h, hin], .write .., .inl (by simp)⟩
  · exact ⟨_, by rw [inner_read h, hin], .read .., .inl (by simp)⟩
  · exact ⟨_, by rw [inner_reply h, hin], .unknown s, .inr ⟨rfl, rfl⟩⟩
  · exact ⟨_, congrArg Host.Outcome.next (hin _ _), .unknown s, .inr ⟨rfl, rfl⟩⟩
  · exact ⟨_, congrArg Host.Outcome.next (hin _ _), .unknown s, .inr ⟨rfl, rfl⟩⟩
  · exact ⟨_, congrArg Host.Outcome.next (hin _ _), .data .., tunnelData_pp ..⟩
  · exact ⟨_, congrArg Host.Outcome.next (hin _ _), .unknown s, .inr ⟨rfl, rfl⟩⟩
  · exact ⟨_, congrArg Host.Outcome.next (hin _ _), .poll .., tunnelPoll_pp ..⟩
  · exact ⟨_, congrArg Host.Outcome.next (hin _ _), .marks s (s.pp + 1) s.need s.tunnelSeen, .inl rfl⟩

/-- `appendErrors` leaves `ABORT` set when it was set. -/
theorem appendReply_abort {b : List Byte} {s : State} (h : s.abort = true) : (appendReply b s).abort = true := by
  unfold appendReply
  split
  · rfl
  · exact h

/-- A short subframe ends the parse where it stands (45_dispatch R292). -/
theorem shortSub_abort (code : Byte) (rest : List Byte) (s : State) :
    (shortSub code rest s).pp = s.pp ∧ (shortSub code rest s).abort = true := by
  unfold shortSub
  split
  · unfold partialWrite
    split
    · exact ⟨rfl, rfl⟩
    · dsimp only
      simp only [storeWrites_eq]
      exact ⟨by simp, rfl⟩
  · exact ⟨rfl, rfl⟩

/-- One pass of the dispatch unit's parse: it never stops, and `PP` moves past a subframe that stands wholly in the payload,
or the parse is aborted (45_dispatch R288). -/
theorem dispatchPass {s : State} (hp : s.parser = .dispatch) (hlt : s.pp < s.payload.length) :
    ∃ t, (dispatchFetch s).inner = .next t ∧ DispatchStep s t ∧
      ((s.pp < t.pp ∧ t.pp ≤ s.payload.length) ∨ (t.pp = s.pp ∧ t.abort = true)) := by
  unfold dispatchFetch
  split
  · rename_i h
    have := congrArg List.length h
    simp at this; omega
  · rename_i code rest hd
    split
    · rename_i i r hi
      have hl := decodeSub_language hi
      obtain ⟨t, h1, h2, h3⟩ := inner_dispatch hl hp
      refine ⟨t, h1, h2, ?_⟩
      rcases h3 with h3 | h3
      · have hsz := decodeSub_size hi
        have := size_pos hl
        have hlen := congrArg List.length hd
        simp only [List.length_drop] at hlen
        left; omega
      · exact .inr h3
    · split
      · exact ⟨_, rfl, .short .., .inr (shortSub_abort ..)⟩
      · exact ⟨_, rfl, .unknown s, .inr ⟨rfl, rfl⟩⟩
    · exact ⟨_, rfl, .unknown s, .inr ⟨rfl, rfl⟩⟩

/-- EVERYTHING THE DISPATCH LOOP CAN DO: it never stops, it ends in a state in which the parse has ended, with `PP` within
the payload (45_dispatch R287, R288). -/
theorem dispatchLoop_ends (n : Nat) {s : State} (hp : s.parser = .dispatch) (hle : s.pp ≤ s.payload.length)
    (hn : s.payload.length ≤ s.pp + n) :
    ∃ t, dispatchLoop n s = .next t ∧ DispatchStep s t ∧ t.dispatchDone = true ∧ t.pp ≤ s.payload.length := by
  induction n generalizing s with
  | zero => exact ⟨s, rfl, .refl s, by simp [State.dispatchDone]; left; left; omega, hle⟩
  | succ n ih =>
    simp only [dispatchLoop]
    by_cases hd : s.dispatchDone = true
    · exact ⟨s, by simp [hd], .refl s, hd, hle⟩
    · have hlt : s.pp < s.payload.length := by
        simp only [State.dispatchDone, Bool.or_eq_true, decide_eq_true_eq, not_or] at hd
        omega
      obtain ⟨t, h1, h2, h3⟩ := dispatchPass hp hlt
      rw [if_neg hd, h1]
      have hpl := h2.payload
      simp only [Out.andThen]
      rcases h3 with ⟨h3, h4⟩ | ⟨h3, h4⟩
      · obtain ⟨u, k1, k2, k3, k4⟩ := ih (s := t) (by rw [h2.parser, hp]) (by rw [hpl]; exact h4) (by rw [hpl]; omega)
        exact ⟨u, k1, h2.trans k2, k3, by rwa [hpl] at k4⟩
      · have hdone : t.dispatchDone = true := by simp [State.dispatchDone, h4]
        refine ⟨t, ?_, h2, hdone, by omega⟩
        cases n with
        | zero => rfl
        | succ n => simp [dispatchLoop, hdone]

end Sys2Proof.Machine
end

