-- ==== Sys2Proof/Laws/Scan.lean ====
section
/-! SUPPORT. Everything a scan of the receive buffer can do (43_frame_sync R181), said once. -/

namespace Sys2Proof.Machine

/-- The counters after `k` checksum mismatches. -/
def State.afterMismatches (s : State) (k : Nat) : Stats :=
  (fun st => Stats.bump s.cfg.statsWidth st .checksumMismatch)^[k] s.stats

/-- The header search leaves a suffix of the buffer that is empty or begins with the header's low byte (R182). -/
theorem header_search (b : List Byte) :
    b.dropWhile (fun x => x != 0x54#8) <:+ b ∧
      (b.dropWhile (fun x => x != 0x54#8)).head?.getD 0x54#8 = 0x54#8 := by
  refine ⟨List.dropWhile_suffix _, ?_⟩
  induction b with
  | nil => rfl
  | cons x b ih =>
    simp only [List.dropWhile_cons]
    split
    · exact ih
    · rename_i h
      simpa using h

/-- One pass of the scan, by what the decoder finds after the header search. -/
theorem scanPass (s : State) :
    ∃ b, b <:+ s.rxBuf ∧ b.head?.getD 0x54#8 = 0x54#8 ∧
      ((decodeFrame s.cfg b = .error .short ∧
          (scanFetch s).inner = .next { s with rxBuf := b, rxState := .readingMore }) ∨
        (∃ e, decodeFrame s.cfg b = .error e ∧ e ≠ .short ∧ b ≠ [] ∧
          (scanFetch s).inner = .next { s with rxBuf := b.drop 2 }) ∨
        (∃ src rr dst len payload crc rest,
          decodeFrame s.cfg b = .ok (.frame src rr dst len payload crc, rest) ∧
          (scanFetch s).inner = execFrame src rr dst len payload crc { s with rxBuf := b })) := by
  obtain ⟨h1, h2⟩ := header_search s.rxBuf
  refine ⟨_, h1, h2, ?_⟩
  unfold scanFetch
  simp only
  split
  · rename_i i rest hi
    obtain ⟨src, dst, len, s', _, _, _, _, rfl, _⟩ := decodeFrame_ok hi
    exact .inr (.inr ⟨_, _, _, _, _, _, _, hi, rfl⟩)
  · rename_i hi
    exact .inl ⟨hi, rfl⟩
  · rename_i e hne hi
    refine .inr (.inl ⟨e, hi, hne, ?_, rfl⟩)
    intro h
    rw [h] at hi
    simp [decodeFrame] at hi
    subst hi
    exact hne rfl

/-- A delivery ends the read (R189). -/
@[simp] theorem deliver_rxState (src : BitVec 7) (rr : Bool) (dst : Byte) (len : Word) (payload : List Byte)
    (total : Nat) (s : State) : (deliver src rr dst len payload total s).rxState = .idle := by
  unfold deliver
  split <;> rfl

/-- A loop outside `AWAIT_FRAME` is over. -/
theorem scanLoop_done (n : Nat) {s : State} (h : s.rxState ≠ .awaitFrame) : scanLoop n s = .next s := by
  cases n with
  | zero => rfl
  | succ n => simp [scanLoop, h]

/-- EVERYTHING A SCAN CAN DO (43_frame_sync R181 to R189). It counts some mismatches and discards bytes from the front;
then it waits on a buffer that is empty or the beginning of a candidate, or it delivers a complete candidate whose
checksum matches. The one stop is a truncated delivery to the dispatch unit. -/
theorem scanLoop_cases (n : Nat) {s : State} (hs : s.rxState = .awaitFrame) (hn : s.rxBuf.length < n) :
    ∃ k b, k + b.length ≤ s.rxBuf.length ∧ b <:+ s.rxBuf ∧ b.head?.getD 0x54#8 = 0x54#8 ∧
      ((decodeFrame s.cfg b = .error .short ∧
          scanLoop n s =
            .next { s with rxBuf := b, stats := s.afterMismatches k, rxState := .readingMore }) ∨
        (∃ src rr dst len payload crc rest,
          decodeFrame s.cfg b = .ok (.frame src rr dst len payload crc, rest) ∧
          fcs s.cfg (b.take (4 + len.size + payload.length)) = crc ∧
          scanLoop n s =
            if s.rxOwner = .server ∧ s.rxCap < len.value.toNat then .fault .serverCompletion
            else .next (deliver src rr dst len.value payload (4 + len.size + payload.length + 2)
              { s with rxBuf := b, stats := s.afterMismatches k }))) := by
  induction n generalizing s with
  | zero => omega
  | succ n ih =>
    obtain ⟨b, hb, hhead, h⟩ := scanPass s
    have hlen := hb.length_le
    simp only [scanLoop, hs, ne_eq, not_true_eq_false, if_false]
    rcases h with ⟨hd, hx⟩ | ⟨e, hd, hne, hnil, hx⟩ | ⟨src, rr, dst, len, payload, crc, rest, hd, hx⟩
    · refine ⟨0, b, by omega, hb, hhead, .inl ⟨hd, ?_⟩⟩
      rw [hx]
      exact scanLoop_done n (by simp)
    · rw [hx]
      simp only [Out.andThen]
      have hlen2 : 1 ≤ b.length := by cases b <;> simp_all
      have hrec := ih (s := { s with rxBuf := b.drop 2 }) hs (by simp; omega)
      obtain ⟨k, b', h1, h2, h3, h4⟩ := hrec
      refine ⟨k, b', ?_, ?_, h3, ?_⟩
      · simp at h1; omega
      · exact (h2.trans (List.drop_suffix 2 b)).trans hb
      · exact h4
    · rw [hx]
      obtain ⟨sb, db, len', s', hb', hv, _, hl, hi, _⟩ := decodeFrame_ok hd
      simp only [Instr.frame.injEq] at hi
      obtain ⟨rfl, rfl, rfl, rfl, hp, rfl⟩ := hi
      have hsz := vdec_size hv
      unfold execFrame
      rw [if_neg (by simp [hs])]
      dsimp only
      have ht : 4 + len.size + payload.length + 2 - 2 = 4 + len.size + payload.length := by omega
      simp only [ht]
      by_cases hf : fcs s.cfg (b.take (4 + len.size + payload.length)) = rd16 (s'.drop (len.size + len.value.toNat))
      · rw [if_neg (not_not.mpr hf)]
        refine ⟨0, b, by omega, hb, hhead, .inr ⟨_, _, _, _, _, _, _, hd, hf, ?_⟩⟩
        by_cases ho : s.rxOwner = .server ∧ s.rxCap < len.value.toNat
        · rw [if_pos ho, if_pos ho]
          rfl
        · rw [if_neg ho, if_neg ho]
          exact scanLoop_done n (by simp)
      · rw [if_pos hf]
        simp only [Out.andThen]
        have hlen2 : 5 ≤ b.length := by rw [hb']; simp; omega
        have hrec := ih (s := { { s with rxBuf := b }.bump .checksumMismatch with rxBuf := b.drop 2 }) hs
          (by simp; omega)
        obtain ⟨k, b', h1, h2, h3, h4⟩ := hrec
        refine ⟨k + 1, b', ?_, ?_, h3, ?_⟩
        · simp at h1; omega
        · exact (h2.trans (List.drop_suffix 2 b)).trans hb
        · exact h4

/-- `scanLoop_cases` at the number of passes `scan` allows. -/
theorem scan_cases {s : State} (hs : s.rxState = .awaitFrame) :
    ∃ k b, k + b.length ≤ s.rxBuf.length ∧ b <:+ s.rxBuf ∧ b.head?.getD 0x54#8 = 0x54#8 ∧
      ((decodeFrame s.cfg b = .error .short ∧
          scan s = .next { s with rxBuf := b, stats := s.afterMismatches k, rxState := .readingMore }) ∨
        (∃ src rr dst len payload crc rest,
          decodeFrame s.cfg b = .ok (.frame src rr dst len payload crc, rest) ∧
          fcs s.cfg (b.take (4 + len.size + payload.length)) = crc ∧
          scan s =
            if s.rxOwner = .server ∧ s.rxCap < len.value.toNat then .fault .serverCompletion
            else .next (deliver src rr dst len.value payload (4 + len.size + payload.length + 2)
              { s with rxBuf := b, stats := s.afterMismatches k }))) :=
  scanLoop_cases _ hs (Nat.lt_succ_self _)

/-- A delivery ends the read; to the host it emits the one completion, to the dispatch unit none (R189, 45_dispatch
R285). -/
theorem deliver_host {src : BitVec 7} {rr : Bool} {dst : Byte} {len : Word} {payload : List Byte} {total : Nat}
    {s : State} (h : s.rxOwner = .host) :
    deliver src rr dst len payload total s =
      { s with
        rxfSrc := src, rxfRr := rr, rxfDst := dst, rxfLen := len
        rxfPayload := payload.take (min len.toNat s.rxCap), rxfTrunc := decide (s.rxCap < len.toNat)
        rxState := .idle, rxBuf := s.rxBuf.drop total
        completion := some ⟨.rx, if decide (s.rxCap < len.toNat) then .truncated else .ok,
          .frame src rr dst len (payload.take (min len.toNat s.rxCap))⟩ } := by
  unfold deliver
  simp only [h]
  rfl

theorem deliver_server {src : BitVec 7} {rr : Bool} {dst : Byte} {len : Word} {payload : List Byte} {total : Nat}
    {s : State} (h : s.rxOwner = .server) :
    deliver src rr dst len payload total s =
      { s with
        rxfSrc := src, rxfRr := rr, rxfDst := dst, rxfLen := len
        rxfPayload := payload.take (min len.toNat s.rxCap), rxfTrunc := decide (s.rxCap < len.toNat)
        rxState := .idle, rxBuf := s.rxBuf.drop total, srvState := .frameReceived } := by
  unfold deliver
  simp only [h]

end Sys2Proof.Machine
end

