-- ==== Sys2Proof/Laws/Receive.lean ====
section
/-! SUPPORT. When a scan may be started, and that every scan so started ends between two steps of the invariant: the common
ground of every command and event that arms a read or delivers a byte (43_frame_sync R190, R191; 45_dispatch R285, R293). -/

namespace Sys2Proof.Machine

/-- What a state must be like for a scan to be started in it: everything the invariant says but that the receiver waits, the
dispatch unit idle, and the read's owner the framer's (45_dispatch R284). -/
structure ScanReady (s : State) : Prop where
  wf : s.cfg.wf
  parser : s.parser = .none
  buf : s.rxBuf.length ≤ s.cfg.maxPayload + 11
  cap : s.rxCap ≤ s.cfg.maxPayload
  rxf : s.rxfOk
  tx : s.txOk
  vd : s.vdOk
  stats : s.statsOk
  tun : s.tunnelsOk
  bnd : s.boundsOk
  idle : s.srvState = .idle
  own : if s.srvEn then s.rxOwner = .server ∧ s.rxCap = s.cfg.maxPayload ∧ s.txState ≠ .busy
    else s.rxOwner = .host ∧ (s.txState = .busy → s.txOwner = .host)

/-- Mismatches keep the counters below their bound. -/
theorem mismatches_statsOk (s : State) (k : Nat) (h : s.statsOk) :
    ({ s with stats := s.afterMismatches k } : State).statsOk := by
  induction k with
  | zero => exact h
  | succ k ih =>
    have : s.afterMismatches (k + 1) = (s.afterMismatches k).bump s.cfg.statsWidth .checksumMismatch := by
      simp only [State.afterMismatches, Function.iterate_succ_apply']
    rw [this]
    exact bump_statsOk { s with stats := s.afterMismatches k } .checksumMismatch ih

/-- A scan from such a state ends, in a state that meets the invariant. -/
theorem scan_ready {s : State} (h : ScanReady s) (hs : s.rxState = .awaitFrame) : ∃ t, scan s = .next t ∧ t.Inv := by
  obtain ⟨k, b, hk, hb, hh, hc⟩ := scan_cases hs
  have hst := mismatches_statsOk s k h.stats
  have hwf := h.wf
  rcases hc with ⟨hd, hx⟩ | ⟨src, rr, dst, len, payload, crc, rest, hd, hf, hx⟩
  · refine ⟨_, hx, h.wf, ⟨h.parser, by simp, by simp [h.idle]⟩, ⟨?_, h.cap, fun _ => ⟨hh, hd⟩⟩, h.rxf, h.tx, ?_,
      h.vd, hst, h.tun, h.bnd⟩
    · have := decodeFrame_short hd
      have := hwf.1
      simp only
      omega
    · have := h.own
      simp only [State.srvOk]
      split
      · rename_i he
        simp only [he, if_true] at this
        simp [h.idle, this.1, this.2.1, this.2.2]
      · rename_i he
        simp only [he] at this
        simp at this
        simp [h.idle, this.1]
        exact this.2
  · obtain ⟨sb, db, len', s', hb', hv, hle, hl, hi, _⟩ := decodeFrame_ok hd
    simp only [Instr.frame.injEq] at hi
    obtain ⟨rfl, rfl, rfl, rfl, hp, rfl⟩ := hi
    have hsz := vdec_size hv
    have hpl : payload.length = len.value.toNat := by
      rw [hp]
      simp
      omega
    have hown := h.own
    have hbl := hb.length_le
    by_cases he : s.srvEn
    · simp only [he, if_true] at hown
      rw [if_neg (by have := hown.2.1; omega)] at hx
      rw [deliver_server (by exact hown.1)] at hx
      refine ⟨_, hx, h.wf, ⟨h.parser, by simp, by simp⟩, ⟨?_, h.cap, by simp⟩, ⟨hle, ?_, ?_⟩, h.tx, ?_, h.vd, hst,
        h.tun, h.bnd⟩
      · have := h.buf
        simp
        omega
      · simp
      · simp [hpl, hown.2.1]
      · simp [State.srvOk, he, hown]
        omega
    · simp only [he] at hown
      simp at hown
      rw [if_neg (by simp [hown.1])] at hx
      rw [deliver_host (by exact hown.1)] at hx
      refine ⟨_, hx, h.wf, ⟨h.parser, by simp, by simp [h.idle]⟩, ⟨?_, h.cap, by simp⟩, ⟨hle, ?_, ?_⟩, h.tx, ?_, h.vd,
        hst, h.tun, h.bnd⟩
      · have := h.buf
        simp
        omega
      · simp
      · simp [hpl]
      · simp [State.srvOk, he, hown.1, h.idle]
        exact hown.2

/-- A read armed with none pending (43_frame_sync R190). -/
theorem arm_ready {s0 s : State} {cap : Nat} {owner : Owner} (hs : s.rxState = .idle)
    (h : ScanReady { s with rxCap := cap, rxOwner := owner, rxState := .awaitFrame }) :
    ∃ t, arm s0 cap owner s = .next t ∧ t.Inv := by
  unfold arm
  rw [if_neg (by simp [hs])]
  exact scan_ready h rfl

/-- A read armed while one is pending raises the fault and nothing else (43_frame_sync R194). -/
theorem arm_pending {s0 s : State} {cap : Nat} {owner : Owner} (hs : s.rxState ≠ .idle) :
    arm s0 cap owner s = .next (s0.raise .doubleRead) := by
  unfold arm
  rw [if_pos hs]

/-- A raised fault keeps the reserved bits of `FAULT` 0 (10_state R34). -/
theorem raise_fault_lt (a : Word) (f : FaultBit) (h : a.toNat < 2 ^ 9) : (a ||| f.mask).toNat < 2 ^ 9 := by
  rw [BitVec.toNat_or]
  apply Nat.or_lt_two_pow h
  cases f <;> decide

end Sys2Proof.Machine
end

