-- ==== Sys2Proof/Laws/Reply.lean ====
section
/-! SUPPORT. The reply map keeps its sorted form, and everything the reply parser's loop can do (44_subframe_codec R260,
R261). -/

namespace Sys2Proof.Machine

/-- The entries of a map after an insertion are the new one and old ones. -/
theorem rpInsert_forall {p : Word → Prop} (reg : Word) (e : RpEntry) (m : List (Word × RpEntry)) (hr : p reg)
    (h : ∀ x ∈ m, p x.1) : ∀ x ∈ rpInsert reg e m, p x.1 := by
  induction m with
  | nil => simpa [rpInsert] using hr
  | cons b m ih =>
    have hb := h b (by simp)
    have hm : ∀ x ∈ m, p x.1 := fun x hx => h x (by simp [hx])
    intro x hx
    simp only [rpInsert] at hx
    split at hx
    · simp at hx
      rcases hx with rfl | rfl | hx
      · exact hr
      · exact hb
      · exact hm x hx
    · split at hx
      · simp at hx
        rcases hx with rfl | hx
        · exact hr
        · exact hm x hx
      · simp at hx
        rcases hx with rfl | hx
        · exact hb
        · exact ih hm x hx

/-- An insertion keeps the map sorted with no register twice (10_state R39). -/
theorem rpInsert_sorted (reg : Word) (e : RpEntry) (m : List (Word × RpEntry)) (h : rpSorted m) :
    rpSorted (rpInsert reg e m) := by
  induction m with
  | nil => simp [rpInsert, rpSorted]
  | cons a m ih =>
    obtain ⟨q, d⟩ := a
    simp only [rpSorted, List.pairwise_cons] at h
    simp only [rpInsert]
    split
    · simp only [rpSorted, List.pairwise_cons, List.mem_cons, forall_eq_or_imp]
      refine ⟨⟨by assumption, fun x hx => ?_⟩, h.1, h.2⟩
      have := h.1 x hx
      simp at this ⊢
      omega
    · split
      · rename_i h2
        subst h2
        simp only [rpSorted, List.pairwise_cons]
        exact h
      · rename_i h3 h4
        have hne : q.toNat ≠ reg.toNat := fun hq => h4 (BitVec.eq_of_toNat_eq hq.symm)
        simp only [rpSorted, List.pairwise_cons]
        exact ⟨rpInsert_forall (p := fun w => q.toNat < w.toNat) reg e m (by omega) h.1, ih h.2⟩

/-- So does a run of values. -/
theorem rpInsertRun_sorted (reg : Word) (vs : List Value) (m : List (Word × RpEntry)) (h : rpSorted m) :
    rpSorted (rpInsertRun reg vs m) := by
  induction vs generalizing reg m with
  | nil => exact h
  | cons v vs ih => exact ih _ _ (rpInsert_sorted _ _ _ h)

/-- What the reply parser may change: its map, its count and its own locals. -/
structure ReplyStep (s t : State) : Prop where
  frame : t = { s with rpMap := t.rpMap, rpUsed := t.rpUsed, rpPos := t.rpPos, parser := t.parser }
  sorted : rpSorted s.rpMap → rpSorted t.rpMap

theorem ReplyStep.trans {s t u : State} (h : ReplyStep s t) (k : ReplyStep t u) : ReplyStep s u :=
  ⟨by rw [k.frame, h.frame], k.sorted ∘ h.sorted⟩

/-- EVERYTHING A SUBFRAME CAN DO IN THE REPLY PARSER: it is recorded and the index moves past it, or the parse ends before it
(44_subframe_codec R225 to R244). -/
theorem inner_replyParser {i : Instr} (h : i.language = .subframe) {s : State} (hp : s.parser = .reply) :
    ∃ t, execInner i s = .next t ∧ ReplyStep s t ∧
      ((t.parser = .reply ∧ t.rpPos = s.rpPos + i.size ∧ t.rpUsed = BitVec.ofNat 32 t.rpPos) ∨
        (t.parser = .replyEnded ∧ t.rpPos = s.rpPos ∧ t.rpUsed = s.rpUsed)) := by
  have hin : ∀ a b, s.inParser a b = b s := by
    intro a b
    unfold State.inParser
    rw [hp]
  have stop : ReplyStep s (replyStop s) := ⟨rfl, id⟩
  rcases subframe_kinds h with ⟨p, h⟩ | ⟨p, h⟩ | ⟨p, h⟩ | ⟨r, e, rfl⟩ | ⟨r, e, rfl⟩ | ⟨ch, l, d, rfl⟩ | ⟨ch, l, d, rfl⟩ |
    ⟨ch, m, rfl⟩ | rfl
  · exact ⟨_, by rw [inner_write h, hin], stop, .inr ⟨rfl, rfl, rfl⟩⟩
  · exact ⟨_, by rw [inner_read h, hin], stop, .inr ⟨rfl, rfl, rfl⟩⟩
  · exact ⟨replyRun p.1 p.2 i.size s, by rw [inner_reply h, hin], ⟨rfl, rpInsertRun_sorted _ _ _⟩,
      .inl ⟨hp, rfl, rfl⟩⟩
  · exact ⟨_, congrArg Host.Outcome.next (hin _ _), ⟨rfl, rpInsert_sorted _ _ _⟩, .inl ⟨hp, rfl, rfl⟩⟩
  · exact ⟨_, congrArg Host.Outcome.next (hin _ _), ⟨rfl, rpInsert_sorted _ _ _⟩, .inl ⟨hp, rfl, rfl⟩⟩
  · exact ⟨_, congrArg Host.Outcome.next (hin _ _), stop, .inr ⟨rfl, rfl, rfl⟩⟩
  · exact ⟨_, congrArg Host.Outcome.next (hin _ _), stop, .inr ⟨rfl, rfl, rfl⟩⟩
  · exact ⟨_, congrArg Host.Outcome.next (hin _ _), stop, .inr ⟨rfl, rfl, rfl⟩⟩
  · exact ⟨_, congrArg Host.Outcome.next (hin _ _), stop, .inr ⟨rfl, rfl, rfl⟩⟩

/-- A reply parse that met its end stays there. -/
theorem replyLoop_done (n : Nat) {s : State} (h : s.parser = .replyEnded) : replyLoop n s = .next s := by
  cases n with
  | zero => rfl
  | succ n => simp [replyLoop, State.replyDone, h]

/-- EVERYTHING THE REPLY LOOP CAN DO: it never stops, it ends with the parse ended and the count at the index reached
(44_subframe_codec R260). -/
theorem replyLoop_ends (n : Nat) {s : State} (hp : s.parser = .reply) (hle : s.rpPos ≤ s.rpPayload.length)
    (hu : s.rpUsed = BitVec.ofNat 32 s.rpPos) (hn : s.rpPayload.length ≤ s.rpPos + n) :
    ∃ t, replyLoop n s = .next t ∧ ReplyStep s t ∧ t.replyDone = true ∧ t.rpPos ≤ s.rpPayload.length ∧
      t.rpUsed = BitVec.ofNat 32 t.rpPos := by
  induction n generalizing s with
  | zero => exact ⟨s, rfl, ⟨rfl, id⟩, by simp [State.replyDone]; right; omega, hle, hu⟩
  | succ n ih =>
    simp only [replyLoop]
    by_cases hd : s.replyDone = true
    · exact ⟨s, by simp [hd], ⟨rfl, id⟩, hd, hle, hu⟩
    · rw [if_neg hd]
      unfold replyFetch
      split
      · rename_i i r hi
        obtain ⟨t, h1, h2, h3⟩ := inner_replyParser (decodeSub_language hi) hp
        have hsz := decodeSub_size hi
        simp only [List.length_drop] at hsz
        have hpos := size_pos (decodeSub_language hi)
        have hpl : t.rpPayload = s.rpPayload := by rw [h2.frame]
        simp only [Fetched.inner, h1, Out.andThen]
        rcases h3 with ⟨h3, h4, h5⟩ | ⟨h3, h4, h5⟩
        · obtain ⟨u, k1, k2, k3, k4, k5⟩ := ih (s := t) h3 (by rw [hpl]; omega) h5 (by rw [hpl]; omega)
          exact ⟨u, k1, h2.trans k2, k3, by rwa [hpl] at k4, k5⟩
        · exact ⟨t, replyLoop_done _ h3, h2, by simp [State.replyDone, h3], by omega, by rw [h5, hu, h4]⟩
      · refine ⟨replyStop s, ?_, ⟨rfl, id⟩, by simp [State.replyDone], hle, hu⟩
        simp only [Fetched.inner, Out.andThen]
        exact replyLoop_done _ rfl

end Sys2Proof.Machine
end

