-- ==== Sys2Proof/Tests/Slice0.lean ====
section
/-! SUPPORT. Tests of the model on small fixed states. Every expected result is one of the spec's own examples, cited by
its rule, or is worked out from the rule by hand; and for every statement with hypotheses, states that meet them. -/

namespace Sys2Proof.Tests

open Sys2Proof Sys2Proof.Machine

set_option Elab.async false

/-! ### Helpers -/

/-- The reference parameters with the example store of 45_dispatch R297. -/
def exCfg : Config := { Config.reference with store := .sample [] }

/-- The block after reset at those parameters, with `NODE_ID = 1`. -/
def ex : State := { State.resetWith exCfg with nodeId := 0x01#8 }

/-- `o` goes on, in a state of which `p` holds. -/
def leads (o : Out) (p : State → Bool) : Bool :=
  match o with
  | .next s => p s
  | _ => false

theorem leads_next {o : Out} {p : State → Bool} (h : leads o p = true) : ∃ t, o = .next t ∧ p t = true := by
  cases o with
  | next s => exact ⟨s, rfl, h⟩
  | fault f => cases h
  | refused r => cases h

theorem goes_on {o : Out} (h : leads o (fun _ => true) = true) : ∃ t, o = .next t :=
  (leads_next h).imp fun _ ht => ht.1

/-- The dispatch unit has received a frame with this payload from node 0, and has the turn. -/
def received (rr : Bool) (payload : List Byte) : State :=
  { ex with
    srvEn := true, srvState := .frameReceived, rxOwner := .server, rxCap := 64, rxfDst := 0x01#8, rxfRr := rr
    rxfLen := BitVec.ofNat 32 payload.length, rxfPayload := payload, sched := [.take .dispatch] }

/-- One `SRV_DISPATCH` on such a frame: the store calls, the reply frame (none sent: empty), `MALFORMED_SUBFRAME`, and what
the block does then. -/
def served (rr : Bool) (payload : List Byte) : Option (List StoreCall × List Byte × Nat × SrvState) :=
  match step (received rr payload) with
  | .next t => some (t.storeLog, t.txBuf, t.stats.malformedSubframe, t.srvState)
  | _ => none

/-- One `RP_PARSE`: `RP_MAP` and `RP_USED`. -/
def parsed (payload : List Byte) : Option (List (Word × RpEntry) × Word) :=
  match exec (.rpParse payload) ex with
  | .next t => some (t.rpMap, t.rpUsed)
  | _ => none

/-- What a command returns from state `s`. -/
def returned (i : Instr) (s : State) : Option Result :=
  match exec i s with
  | .next t => some t.result
  | _ => none

/-- The completion that `i` outputs from state `s`, and the state's `RX_STATE` after. -/
def completes (i : Instr) (s : State) : Option (Option Completion × RxState) :=
  match exec i s with
  | .next t => some (t.completion, t.rxState)
  | _ => none

/-! ### Decoding: one word of every constructor, written out from the spec's encodings -/

/-- 42_frame_codec R161: src 1, rr 0, dst 2, one byte. -/
theorem test_decode_frame : decodeFrame .reference [0x54#8, 0xAB#8, 0x01#8, 0x02#8, 0x01#8, 0x41#8, 0xBE#8, 0xCD#8] =
    .ok (.frame 1#7 false 2#8 ⟨1#32, 1⟩ [0x41#8] 0xCDBE#16, []) := rfl

theorem test_decode_writeI8N : decodeSub .reference [0x00#8, 0x04#8, 0x10#8, 0x11#8, 0x22#8, 0x33#8, 0xFF#8] = .ok
    (.writeI8N ⟨4#32, 1⟩ ⟨16#32, 1⟩ [0x11#8, 0x22#8, 0x33#8, 0xFF#8], []) := rfl
theorem test_decode_writeI8_1 : decodeSub .reference [0x01#8, 0x05#8, 0x11#8] = .ok (.writeI8_1 ⟨5#32, 1⟩ 0x11#8, [])
    := rfl
theorem test_decode_writeI8_2 : decodeSub .reference [0x02#8, 0x05#8, 0x11#8, 0x22#8] = .ok (.writeI8_2 ⟨5#32, 1⟩
    0x11#8 0x22#8, []) := rfl
theorem test_decode_writeI8_3 : decodeSub .reference [0x03#8, 0x05#8, 0x11#8, 0x22#8, 0x33#8] = .ok (.writeI8_3 ⟨5#32,
    1⟩ 0x11#8 0x22#8 0x33#8, []) := rfl
theorem test_decode_writeI16N : decodeSub .reference [0x04#8, 0x04#8, 0x10#8, 0x01#8, 0x03#8, 0x03#8, 0x03#8, 0x05#8,
    0x03#8, 0x04#8, 0x80#8] = .ok (.writeI16N ⟨4#32, 1⟩ ⟨16#32, 1⟩ [0x0301#16, 0x0303#16, 0x0305#16, 0x8004#16], [])
    := rfl
theorem test_decode_writeI16_1 : decodeSub .reference [0x05#8, 0x05#8, 0x01#8, 0x03#8] = .ok (.writeI16_1 ⟨5#32, 1⟩
    0x0301#16, []) := rfl
theorem test_decode_writeI16_2 : decodeSub .reference [0x06#8, 0x05#8, 0x01#8, 0x03#8, 0x03#8, 0x03#8] = .ok
    (.writeI16_2 ⟨5#32, 1⟩ 0x0301#16 0x0303#16, []) := rfl
theorem test_decode_writeI16_3 : decodeSub .reference [0x07#8, 0x05#8, 0x01#8, 0x03#8, 0x03#8, 0x03#8, 0x05#8, 0x03#8]
    = .ok (.writeI16_3 ⟨5#32, 1⟩ 0x0301#16 0x0303#16 0x0305#16, []) := rfl
theorem test_decode_writeI32N : decodeSub .reference [0x08#8, 0x04#8, 0x10#8, 0x11#8, 0x22#8, 0x33#8, 0x44#8, 0x55#8,
    0x66#8, 0x77#8, 0x88#8, 0x7F#8, 0x00#8, 0x00#8, 0x00#8, 0xFF#8, 0xFF#8, 0xFF#8, 0xFF#8] = .ok (.writeI32N ⟨4#32,
    1⟩ ⟨16#32, 1⟩ [0x44332211#32, 0x88776655#32, 0x0000007F#32, 0xFFFFFFFF#32], []) := rfl
theorem test_decode_writeI32_1 : decodeSub .reference [0x09#8, 0x05#8, 0x11#8, 0x22#8, 0x33#8, 0x44#8] = .ok
    (.writeI32_1 ⟨5#32, 1⟩ 0x44332211#32, []) := rfl
theorem test_decode_writeI32_2 : decodeSub .reference [0x0A#8, 0x05#8, 0x11#8, 0x22#8, 0x33#8, 0x44#8, 0x55#8, 0x66#8,
    0x77#8, 0x88#8] = .ok (.writeI32_2 ⟨5#32, 1⟩ 0x44332211#32 0x88776655#32, []) := rfl
theorem test_decode_writeI32_3 : decodeSub .reference [0x0B#8, 0x05#8, 0x11#8, 0x22#8, 0x33#8, 0x44#8, 0x55#8, 0x66#8,
    0x77#8, 0x88#8, 0x7F#8, 0x00#8, 0x00#8, 0x00#8] = .ok (.writeI32_3 ⟨5#32, 1⟩ 0x44332211#32 0x88776655#32
    0x0000007F#32, []) := rfl
theorem test_decode_writeF32N : decodeSub .reference [0x0C#8, 0x04#8, 0x10#8, 0x00#8, 0x00#8, 0x80#8, 0x3F#8, 0x00#8,
    0x00#8, 0x00#8, 0xC0#8, 0x00#8, 0x00#8, 0x00#8, 0x3F#8, 0x00#8, 0x00#8, 0xC0#8, 0x7F#8] = .ok (.writeF32N ⟨4#32,
    1⟩ ⟨16#32, 1⟩ [0x3F800000#32, 0xC0000000#32, 0x3F000000#32, 0x7FC00000#32], []) := rfl
theorem test_decode_writeF32_1 : decodeSub .reference [0x0D#8, 0x05#8, 0x00#8, 0x00#8, 0x80#8, 0x3F#8] = .ok
    (.writeF32_1 ⟨5#32, 1⟩ 0x3F800000#32, []) := rfl
theorem test_decode_writeF32_2 : decodeSub .reference [0x0E#8, 0x05#8, 0x00#8, 0x00#8, 0x80#8, 0x3F#8, 0x00#8, 0x00#8,
    0x00#8, 0xC0#8] = .ok (.writeF32_2 ⟨5#32, 1⟩ 0x3F800000#32 0xC0000000#32, []) := rfl
theorem test_decode_writeF32_3 : decodeSub .reference [0x0F#8, 0x05#8, 0x00#8, 0x00#8, 0x80#8, 0x3F#8, 0x00#8, 0x00#8,
    0x00#8, 0xC0#8, 0x00#8, 0x00#8, 0x00#8, 0x3F#8] = .ok (.writeF32_3 ⟨5#32, 1⟩ 0x3F800000#32 0xC0000000#32
    0x3F000000#32, []) := rfl

theorem test_decode_readI8N : decodeSub .reference [0x10#8, 0x04#8, 0x1E#8] = .ok (.readI8N ⟨4#32, 1⟩ ⟨30#32, 1⟩, [])
    := rfl
theorem test_decode_readI8_1 : decodeSub .reference [0x11#8, 0x09#8] = .ok (.readI8_1 ⟨9#32, 1⟩, []) := rfl
theorem test_decode_readI8_2 : decodeSub .reference [0x12#8, 0x09#8] = .ok (.readI8_2 ⟨9#32, 1⟩, []) := rfl
theorem test_decode_readI8_3 : decodeSub .reference [0x13#8, 0x09#8] = .ok (.readI8_3 ⟨9#32, 1⟩, []) := rfl
theorem test_decode_readI16N : decodeSub .reference [0x14#8, 0x04#8, 0x1E#8] = .ok (.readI16N ⟨4#32, 1⟩ ⟨30#32, 1⟩,
    []) := rfl
theorem test_decode_readI16_1 : decodeSub .reference [0x15#8, 0x09#8] = .ok (.readI16_1 ⟨9#32, 1⟩, []) := rfl
theorem test_decode_readI16_2 : decodeSub .reference [0x16#8, 0x09#8] = .ok (.readI16_2 ⟨9#32, 1⟩, []) := rfl
theorem test_decode_readI16_3 : decodeSub .reference [0x17#8, 0x09#8] = .ok (.readI16_3 ⟨9#32, 1⟩, []) := rfl
theorem test_decode_readI32N : decodeSub .reference [0x18#8, 0x04#8, 0x1E#8] = .ok (.readI32N ⟨4#32, 1⟩ ⟨30#32, 1⟩,
    []) := rfl
theorem test_decode_readI32_1 : decodeSub .reference [0x19#8, 0x09#8] = .ok (.readI32_1 ⟨9#32, 1⟩, []) := rfl
theorem test_decode_readI32_2 : decodeSub .reference [0x1A#8, 0x09#8] = .ok (.readI32_2 ⟨9#32, 1⟩, []) := rfl
theorem test_decode_readI32_3 : decodeSub .reference [0x1B#8, 0x09#8] = .ok (.readI32_3 ⟨9#32, 1⟩, []) := rfl
theorem test_decode_readF32N : decodeSub .reference [0x1C#8, 0x04#8, 0x1E#8] = .ok (.readF32N ⟨4#32, 1⟩ ⟨30#32, 1⟩,
    []) := rfl
theorem test_decode_readF32_1 : decodeSub .reference [0x1D#8, 0x09#8] = .ok (.readF32_1 ⟨9#32, 1⟩, []) := rfl
theorem test_decode_readF32_2 : decodeSub .reference [0x1E#8, 0x09#8] = .ok (.readF32_2 ⟨9#32, 1⟩, []) := rfl
theorem test_decode_readF32_3 : decodeSub .reference [0x1F#8, 0x09#8] = .ok (.readF32_3 ⟨9#32, 1⟩, []) := rfl

theorem test_decode_replyI8N : decodeSub .reference [0x20#8, 0x04#8, 0x10#8, 0x11#8, 0x22#8, 0x33#8, 0xFF#8] = .ok
    (.replyI8N ⟨4#32, 1⟩ ⟨16#32, 1⟩ [0x11#8, 0x22#8, 0x33#8, 0xFF#8], []) := rfl
theorem test_decode_replyI8_1 : decodeSub .reference [0x21#8, 0x05#8, 0x11#8] = .ok (.replyI8_1 ⟨5#32, 1⟩ 0x11#8, [])
    := rfl
theorem test_decode_replyI8_2 : decodeSub .reference [0x22#8, 0x05#8, 0x11#8, 0x22#8] = .ok (.replyI8_2 ⟨5#32, 1⟩
    0x11#8 0x22#8, []) := rfl
theorem test_decode_replyI8_3 : decodeSub .reference [0x23#8, 0x05#8, 0x11#8, 0x22#8, 0x33#8] = .ok (.replyI8_3 ⟨5#32,
    1⟩ 0x11#8 0x22#8 0x33#8, []) := rfl
theorem test_decode_replyI16N : decodeSub .reference [0x24#8, 0x04#8, 0x10#8, 0x01#8, 0x11#8, 0x02#8, 0x22#8, 0x03#8,
    0x33#8, 0x04#8, 0x80#8] = .ok (.replyI16N ⟨4#32, 1⟩ ⟨16#32, 1⟩ [0x1101#16, 0x2202#16, 0x3303#16, 0x8004#16], [])
    := rfl
theorem test_decode_replyI16_1 : decodeSub .reference [0x25#8, 0x05#8, 0x01#8, 0x11#8] = .ok (.replyI16_1 ⟨5#32, 1⟩
    0x1101#16, []) := rfl
theorem test_decode_replyI16_2 : decodeSub .reference [0x26#8, 0x05#8, 0x01#8, 0x11#8, 0x02#8, 0x22#8] = .ok
    (.replyI16_2 ⟨5#32, 1⟩ 0x1101#16 0x2202#16, []) := rfl
theorem test_decode_replyI16_3 : decodeSub .reference [0x27#8, 0x05#8, 0x01#8, 0x11#8, 0x02#8, 0x22#8, 0x03#8, 0x33#8]
    = .ok (.replyI16_3 ⟨5#32, 1⟩ 0x1101#16 0x2202#16 0x3303#16, []) := rfl
theorem test_decode_replyI32N : decodeSub .reference [0x28#8, 0x04#8, 0x10#8, 0x11#8, 0x22#8, 0x33#8, 0x44#8, 0x55#8,
    0x66#8, 0x77#8, 0x88#8, 0x7F#8, 0x00#8, 0x00#8, 0x00#8, 0xFF#8, 0xFF#8, 0xFF#8, 0xFF#8] = .ok (.replyI32N ⟨4#32,
    1⟩ ⟨16#32, 1⟩ [0x44332211#32, 0x88776655#32, 0x0000007F#32, 0xFFFFFFFF#32], []) := rfl
theorem test_decode_replyI32_1 : decodeSub .reference [0x29#8, 0x05#8, 0x11#8, 0x22#8, 0x33#8, 0x44#8] = .ok
    (.replyI32_1 ⟨5#32, 1⟩ 0x44332211#32, []) := rfl
theorem test_decode_replyI32_2 : decodeSub .reference [0x2A#8, 0x05#8, 0x11#8, 0x22#8, 0x33#8, 0x44#8, 0x55#8, 0x66#8,
    0x77#8, 0x88#8] = .ok (.replyI32_2 ⟨5#32, 1⟩ 0x44332211#32 0x88776655#32, []) := rfl
theorem test_decode_replyI32_3 : decodeSub .reference [0x2B#8, 0x05#8, 0x11#8, 0x22#8, 0x33#8, 0x44#8, 0x55#8, 0x66#8,
    0x77#8, 0x88#8, 0x7F#8, 0x00#8, 0x00#8, 0x00#8] = .ok (.replyI32_3 ⟨5#32, 1⟩ 0x44332211#32 0x88776655#32
    0x0000007F#32, []) := rfl
theorem test_decode_replyF32N : decodeSub .reference [0x2C#8, 0x04#8, 0x10#8, 0x00#8, 0x00#8, 0x80#8, 0x3F#8, 0x00#8,
    0x00#8, 0x00#8, 0xC0#8, 0x00#8, 0x00#8, 0x00#8, 0x3F#8, 0x00#8, 0x00#8, 0xC0#8, 0x7F#8] = .ok (.replyF32N ⟨4#32,
    1⟩ ⟨16#32, 1⟩ [0x3F800000#32, 0xC0000000#32, 0x3F000000#32, 0x7FC00000#32], []) := rfl
theorem test_decode_replyF32_1 : decodeSub .reference [0x2D#8, 0x05#8, 0x00#8, 0x00#8, 0x80#8, 0x3F#8] = .ok
    (.replyF32_1 ⟨5#32, 1⟩ 0x3F800000#32, []) := rfl
theorem test_decode_replyF32_2 : decodeSub .reference [0x2E#8, 0x05#8, 0x00#8, 0x00#8, 0x80#8, 0x3F#8, 0x00#8, 0x00#8,
    0x00#8, 0xC0#8] = .ok (.replyF32_2 ⟨5#32, 1⟩ 0x3F800000#32 0xC0000000#32, []) := rfl
theorem test_decode_replyF32_3 : decodeSub .reference [0x2F#8, 0x05#8, 0x00#8, 0x00#8, 0x80#8, 0x3F#8, 0x00#8, 0x00#8,
    0x00#8, 0xC0#8, 0x00#8, 0x00#8, 0x00#8, 0x3F#8] = .ok (.replyF32_3 ⟨5#32, 1⟩ 0x3F800000#32 0xC0000000#32
    0x3F000000#32, []) := rfl
theorem test_decode_writeError : decodeSub .reference [0x30#8, 0x06#8, 0x02#8] = .ok (.writeError ⟨6#32, 1⟩ ⟨2#32, 1⟩,
    []) := rfl
theorem test_decode_readError : decodeSub .reference [0x31#8, 0x20#8, 0xAC#8, 0x02#8] = .ok (.readError ⟨32#32, 1⟩
    ⟨300#32, 2⟩, []) := rfl

theorem test_decode_tunnelC2s : decodeSub .reference [0x40#8, 0x09#8, 0x02#8, 0x68#8, 0x69#8] = .ok (.tunnelC2s ⟨9#32,
    1⟩ ⟨2#32, 1⟩ [0x68#8, 0x69#8], []) := rfl
theorem test_decode_tunnelS2c : decodeSub .reference [0x41#8, 0x09#8, 0x02#8, 0x68#8, 0x69#8] = .ok (.tunnelS2c ⟨9#32,
    1⟩ ⟨2#32, 1⟩ [0x68#8, 0x69#8], []) := rfl
theorem test_decode_tunnelPoll : decodeSub .reference [0x42#8, 0x09#8, 0x83#8, 0x00#8] = .ok (.tunnelPoll ⟨9#32, 1⟩
    ⟨3#32, 2⟩, []) := rfl
theorem test_decode_nop : decodeSub .reference [0x50#8] = .ok (.nop, []) := rfl

/-! Host commands and events: opcodes of 30_encoding R85 and R86, arguments in the layout of log 8. -/

theorem test_decode_crcInit : decodeCommand [0x01#8] = .ok (.crcInit, []) := rfl
theorem test_decode_crcByte : decodeCommand [0x02#8, 0x54#8] = .ok (.crcByte 0x54#8, []) := rfl
theorem test_decode_crcRead : decodeCommand [0x03#8] = .ok (.crcRead, []) := rfl
theorem test_decode_crcCheck : decodeCommand [0x04#8, 0xF5#8, 0xDB#8] = .ok (.crcCheck 0xDBF5#16, []) := rfl
theorem test_decode_venc : decodeCommand [0x08#8, 0x00#8, 0x40#8, 0x00#8, 0x00#8] = .ok (.venc 16384#32, []) := rfl
theorem test_decode_vdecClr : decodeCommand [0x09#8] = .ok (.vdecClr, []) := rfl
theorem test_decode_vdecByte : decodeCommand [0x0A#8, 0xAC#8] = .ok (.vdecByte 0xAC#8, []) := rfl
theorem test_decode_txFrames : decodeCommand [0x10#8, 0x01#8, 0x00#8, 0x00#8, 0x00#8, 0x81#8, 0x02#8, 0x01#8, 0x00#8,
    0x00#8, 0x00#8, 0x41#8] = .ok (.txFrames [⟨1#7, true, 2#8, [0x41#8]⟩], []) := rfl
theorem test_decode_rxArm : decodeCommand [0x11#8, 0x10#8, 0x00#8, 0x00#8, 0x00#8] = .ok (.rxArm 16#32, []) := rfl
theorem test_decode_rxCancel : decodeCommand [0x12#8] = .ok (.rxCancel, []) := rfl
theorem test_decode_srvStart : decodeCommand [0x20#8] = .ok (.srvStart, []) := rfl
theorem test_decode_csrRead : decodeCommand [0x21#8, 0x10#8] = .ok (.csrRead 0x10#8, []) := rfl
theorem test_decode_csrWrite : decodeCommand [0x22#8, 0x00#8, 0x81#8, 0x01#8, 0x00#8, 0x00#8] = .ok (.csrWrite 0x00#8
    0x181#32, []) := rfl
theorem test_decode_rqClear : decodeCommand [0x30#8] = .ok (.rqClear, []) := rfl
theorem test_decode_rqSetRr : decodeCommand [0x31#8, 0x01#8] = .ok (.rqSetRr true, []) := rfl
theorem test_decode_rqWrite : decodeCommand [0x32#8, 0x05#8, 0x00#8, 0x00#8, 0x00#8, 0x01#8, 0x01#8, 0x00#8, 0x00#8,
    0x00#8, 0x02#8, 0x01#8, 0x03#8] = .ok (.rqWrite 5#32 .i16 [[0x01#8, 0x03#8]], []) := rfl
theorem test_decode_rqRead : decodeCommand [0x33#8, 0x00#8, 0x01#8, 0x00#8, 0x00#8, 0x00#8, 0x05#8, 0x00#8, 0x00#8,
    0x00#8] = .ok (.rqRead 256#32 .i8 5#32, []) := rfl
theorem test_decode_rqGet : decodeCommand [0x34#8] = .ok (.rqGet, []) := rfl
theorem test_decode_rpParse : decodeCommand [0x38#8, 0x01#8, 0x00#8, 0x00#8, 0x00#8, 0x50#8] = .ok (.rpParse [0x50#8],
    []) := rfl

theorem test_decode_rxByte : decodeEvent [0x80#8, 0x54#8] = .ok (.rxByte 0x54#8, []) := rfl
theorem test_decode_rxTerr : decodeEvent [0x81#8, 0x03#8, 0x00#8, 0x00#8, 0x00#8] = .ok (.rxTerr 3#32, []) := rfl
theorem test_decode_txTake : decodeEvent [0x82#8] = .ok (.txTake, []) := rfl
theorem test_decode_txTerr : decodeEvent [0x83#8, 0x05#8, 0x00#8, 0x00#8, 0x00#8] = .ok (.txTerr 5#32, []) := rfl
theorem test_decode_rxTimeout : decodeEvent [0x84#8] = .ok (.rxTimeout, []) := rfl
theorem test_decode_tRead : decodeEvent [0x88#8, 0x09#8, 0x10#8, 0x00#8, 0x00#8, 0x00#8] = .ok (.tRead 9#7 16#32, [])
    := rfl
theorem test_decode_tWrite : decodeEvent [0x89#8, 0x09#8, 0x02#8, 0x00#8, 0x00#8, 0x00#8, 0x68#8, 0x69#8] = .ok
    (.tWrite 9#7 [0x68#8, 0x69#8], []) := rfl
theorem test_decode_srvDispatch : decodeEvent [0x90#8] = .ok (.srvDispatch, []) := rfl

/-! Bytes that are no instruction: 30_encoding R100, R101; 43_frame_sync R181; 30_encoding R85. -/

theorem test_decode_unknown : decodeSub .reference [0x33#8] = .error .unknownCode := rfl
theorem test_decode_short : decodeSub .reference [0x07#8, 0x05#8, 0x01#8, 0x03#8] = .error .short := rfl
theorem test_decode_header : decodeFrame .reference [0x54#8, 0xAC#8] = .error .badHeader := rfl
theorem test_decode_oversize : decodeFrame .reference [0x54#8, 0xAB#8, 0x01#8, 0x02#8, 0x41#8] = .error .oversize := rfl
theorem test_decode_opcode : decodeCommand [0x3F#8] = .error .badOpcode := rfl
theorem test_decode_type : decodeCommand [0x33#8, 0#8, 0#8, 0#8, 0#8, 4#8, 0#8, 0#8, 0#8, 0#8] = .error .badArgument := rfl

/-! ### WellFormed: an ill-formed term for each check -/

theorem test_wf_size_zero : ¬ VarU.wf ⟨0#32, 0⟩ := by decide
theorem test_wf_size_six : ¬ VarU.wf ⟨0#32, 6⟩ := by decide
theorem test_wf_size_too_small : ¬ VarU.wf ⟨128#32, 1⟩ := by decide
theorem test_wf_size_padded : VarU.wf ⟨0#32, 5⟩ := by decide
theorem test_wf_frame_count : ¬ Instr.wf .reference (.frame 1#7 false 2#8 ⟨2#32, 1⟩ [0x41#8] 0#16) := by decide
theorem test_wf_frame_size : ¬ Instr.wf .reference (.frame 1#7 false 2#8 ⟨65#32, 1⟩ (List.replicate 65 0#8) 0#16) := by
  decide
theorem test_wf_write_count : ¬ Instr.wf .reference (.writeI8N ⟨2#32, 1⟩ ⟨5#32, 1⟩ [0x11#8]) := by decide
theorem test_wf_write_register : ¬ Instr.wf .reference (.writeI16_1 ⟨128#32, 1⟩ 0#16) := by decide
theorem test_wf_read_count : ¬ Instr.wf .reference (.readF32N ⟨0#32, 0⟩ ⟨5#32, 1⟩) := by decide
theorem test_wf_reply_count : ¬ Instr.wf .reference (.replyI32N ⟨0#32, 1⟩ ⟨5#32, 1⟩ [0#32]) := by decide
theorem test_wf_error_code : ¬ Instr.wf .reference (.readError ⟨5#32, 1⟩ ⟨300#32, 1⟩) := by decide
theorem test_wf_tunnel_count : ¬ Instr.wf .reference (.tunnelC2s ⟨9#32, 1⟩ ⟨0#32, 1⟩ [0#8]) := by decide
theorem test_wf_poll_limit : ¬ Instr.wf .reference (.tunnelPoll ⟨9#32, 1⟩ ⟨3#32, 6⟩) := by decide
theorem test_wf_list (n : Nat) (h : 2 ^ 32 ≤ n) : ¬ fits32 (List.replicate n 0#8) := by
  simp only [fits32, List.length_replicate]; omega
theorem test_wf_pattern : ¬ Instr.wf .reference (.rqWrite 5#32 .i8 [List.replicate 256 0#8]) := by
  decide +kernel
theorem test_wf_read_nothing : ¬ Instr.wf .reference (.tRead 9#7 0#32) := by decide
theorem test_wf_write_nothing : ¬ Instr.wf .reference (.tWrite 9#7 []) := by decide
theorem test_wf_config : Config.wf .reference := by decide
theorem test_wf_max_payload : ¬ Config.wf { Config.reference with maxPayload := 15 } := by decide
theorem test_wf_payload_width : ¬ Config.wf { Config.reference with maxPayload := 2 ^ 32, txBufSize := 2 ^ 33 } := by
  decide
theorem test_wf_tx_buffer : ¬ Config.wf { Config.reference with txBufSize := 74 } := by decide
theorem test_wf_rx_fifo : ¬ Config.wf { Config.reference with tunnelRxCap := 0 } := by decide
theorem test_wf_tx_fifo : ¬ Config.wf { Config.reference with tunnelTxCap := 0 } := by decide
theorem test_wf_stats_zero : ¬ Config.wf { Config.reference with statsWidth := 0 } := by decide
theorem test_wf_stats_wide : ¬ Config.wf { Config.reference with statsWidth := 33 } := by decide
theorem test_wf_channels : ¬ Config.wf { Config.reference with tunnelIds := [9#7, 9#7] } := by decide

/-! ### Writes: the example and the rejected write of 45_dispatch R300 to R315 -/

theorem test_writeI8N : served false [0x00#8, 0x04#8, 0x10#8, 0x11#8, 0x22#8, 0x33#8, 0xFF#8] = some ([.write ⟨16#32,
    .i8 0x11#8⟩, .write ⟨17#32, .i8 0x22#8⟩, .write ⟨18#32, .i8 0x33#8⟩, .write ⟨19#32, .i8 0xFF#8⟩], [], 0, .idle) :=
    by decide +kernel
theorem test_writeI8N_rejected : served false [0x00#8, 0x02#8, 0x1F#8, 0x11#8, 0x22#8] = some ([.write ⟨31#32, .i8
    0x11#8⟩, .write ⟨32#32, .i8 0x22#8⟩], [0x54#8, 0xAB#8, 0x01#8, 0x00#8, 0x03#8, 0x30#8, 0x20#8, 0x07#8, 0xCF#8,
    0x16#8], 0, .replyAssembled) := by decide +kernel
theorem test_writeI8_1 : served false [0x01#8, 0x05#8, 0x11#8] = some ([.write ⟨5#32, .i8 0x11#8⟩], [], 0, .idle) :=
    by decide +kernel
theorem test_writeI8_1_rejected : served false [0x01#8, 0x20#8, 0x11#8] = some ([.write ⟨32#32, .i8 0x11#8⟩], [0x54#8,
    0xAB#8, 0x01#8, 0x00#8, 0x03#8, 0x30#8, 0x20#8, 0x07#8, 0xCF#8, 0x16#8], 0, .replyAssembled) := by decide +kernel
theorem test_writeI8_2 : served false [0x02#8, 0x05#8, 0x11#8, 0x22#8] = some ([.write ⟨5#32, .i8 0x11#8⟩, .write
    ⟨6#32, .i8 0x22#8⟩], [], 0, .idle) := by decide +kernel
theorem test_writeI8_2_rejected : served false [0x02#8, 0x1F#8, 0x11#8, 0x22#8] = some ([.write ⟨31#32, .i8 0x11#8⟩,
    .write ⟨32#32, .i8 0x22#8⟩], [0x54#8, 0xAB#8, 0x01#8, 0x00#8, 0x03#8, 0x30#8, 0x20#8, 0x07#8, 0xCF#8, 0x16#8], 0,
    .replyAssembled) := by decide +kernel
theorem test_writeI8_3 : served false [0x03#8, 0x05#8, 0x11#8, 0x22#8, 0x33#8] = some ([.write ⟨5#32, .i8 0x11#8⟩,
    .write ⟨6#32, .i8 0x22#8⟩, .write ⟨7#32, .i8 0x33#8⟩], [], 0, .idle) := by decide +kernel
theorem test_writeI8_3_rejected : served false [0x03#8, 0x1E#8, 0x11#8, 0x22#8, 0x33#8] = some ([.write ⟨30#32, .i8
    0x11#8⟩, .write ⟨31#32, .i8 0x22#8⟩, .write ⟨32#32, .i8 0x33#8⟩], [0x54#8, 0xAB#8, 0x01#8, 0x00#8, 0x03#8, 0x30#8,
    0x20#8, 0x07#8, 0xCF#8, 0x16#8], 0, .replyAssembled) := by decide +kernel
theorem test_writeI16N : served false [0x04#8, 0x04#8, 0x10#8, 0x01#8, 0x03#8, 0x03#8, 0x03#8, 0x05#8, 0x03#8, 0x04#8,
    0x80#8] = some ([.write ⟨16#32, .i16 0x0301#16⟩, .write ⟨17#32, .i16 0x0303#16⟩, .write ⟨18#32, .i16 0x0305#16⟩,
    .write ⟨19#32, .i16 0x8004#16⟩], [], 0, .idle) := by decide +kernel
theorem test_writeI16N_rejected : served false [0x04#8, 0x02#8, 0x1F#8, 0x01#8, 0x03#8, 0x03#8, 0x03#8] = some
    ([.write ⟨31#32, .i16 0x0301#16⟩, .write ⟨32#32, .i16 0x0303#16⟩], [0x54#8, 0xAB#8, 0x01#8, 0x00#8, 0x03#8,
    0x30#8, 0x20#8, 0x07#8, 0xCF#8, 0x16#8], 0, .replyAssembled) := by decide +kernel
theorem test_writeI16_1 : served false [0x05#8, 0x05#8, 0x01#8, 0x03#8] = some ([.write ⟨5#32, .i16 0x0301#16⟩], [],
    0, .idle) := by decide +kernel
theorem test_writeI16_1_rejected : served false [0x05#8, 0x20#8, 0x01#8, 0x03#8] = some ([.write ⟨32#32, .i16
    0x0301#16⟩], [0x54#8, 0xAB#8, 0x01#8, 0x00#8, 0x03#8, 0x30#8, 0x20#8, 0x07#8, 0xCF#8, 0x16#8], 0, .replyAssembled)
    := by decide +kernel
theorem test_writeI16_2 : served false [0x06#8, 0x05#8, 0x01#8, 0x03#8, 0x03#8, 0x03#8] = some ([.write ⟨5#32, .i16
    0x0301#16⟩, .write ⟨6#32, .i16 0x0303#16⟩], [], 0, .idle) := by decide +kernel
theorem test_writeI16_2_rejected : served false [0x06#8, 0x1F#8, 0x01#8, 0x03#8, 0x03#8, 0x03#8] = some ([.write
    ⟨31#32, .i16 0x0301#16⟩, .write ⟨32#32, .i16 0x0303#16⟩], [0x54#8, 0xAB#8, 0x01#8, 0x00#8, 0x03#8, 0x30#8, 0x20#8,
    0x07#8, 0xCF#8, 0x16#8], 0, .replyAssembled) := by decide +kernel
theorem test_writeI16_3 : served false [0x07#8, 0x05#8, 0x01#8, 0x03#8, 0x03#8, 0x03#8, 0x05#8, 0x03#8] = some
    ([.write ⟨5#32, .i16 0x0301#16⟩, .write ⟨6#32, .i16 0x0303#16⟩, .write ⟨7#32, .i16 0x0305#16⟩], [], 0, .idle) :=
    by decide +kernel
theorem test_writeI16_3_rejected : served false [0x07#8, 0x1E#8, 0x01#8, 0x03#8, 0x03#8, 0x03#8, 0x05#8, 0x03#8] =
    some ([.write ⟨30#32, .i16 0x0301#16⟩, .write ⟨31#32, .i16 0x0303#16⟩, .write ⟨32#32, .i16 0x0305#16⟩], [0x54#8,
    0xAB#8, 0x01#8, 0x00#8, 0x03#8, 0x30#8, 0x20#8, 0x07#8, 0xCF#8, 0x16#8], 0, .replyAssembled) := by decide +kernel
theorem test_writeI32N : served false [0x08#8, 0x04#8, 0x10#8, 0x11#8, 0x22#8, 0x33#8, 0x44#8, 0x55#8, 0x66#8, 0x77#8,
    0x88#8, 0x7F#8, 0x00#8, 0x00#8, 0x00#8, 0xFF#8, 0xFF#8, 0xFF#8, 0xFF#8] = some ([.write ⟨16#32, .i32
    0x44332211#32⟩, .write ⟨17#32, .i32 0x88776655#32⟩, .write ⟨18#32, .i32 0x0000007F#32⟩, .write ⟨19#32, .i32
    0xFFFFFFFF#32⟩], [], 0, .idle) := by decide +kernel
theorem test_writeI32N_rejected : served false [0x08#8, 0x02#8, 0x1F#8, 0x11#8, 0x22#8, 0x33#8, 0x44#8, 0x55#8,
    0x66#8, 0x77#8, 0x88#8] = some ([.write ⟨31#32, .i32 0x44332211#32⟩, .write ⟨32#32, .i32 0x88776655#32⟩], [0x54#8,
    0xAB#8, 0x01#8, 0x00#8, 0x03#8, 0x30#8, 0x20#8, 0x07#8, 0xCF#8, 0x16#8], 0, .replyAssembled) := by decide +kernel
theorem test_writeI32_1 : served false [0x09#8, 0x05#8, 0x11#8, 0x22#8, 0x33#8, 0x44#8] = some ([.write ⟨5#32, .i32
    0x44332211#32⟩], [], 0, .idle) := by decide +kernel
theorem test_writeI32_1_rejected : served false [0x09#8, 0x20#8, 0x11#8, 0x22#8, 0x33#8, 0x44#8] = some ([.write
    ⟨32#32, .i32 0x44332211#32⟩], [0x54#8, 0xAB#8, 0x01#8, 0x00#8, 0x03#8, 0x30#8, 0x20#8, 0x07#8, 0xCF#8, 0x16#8], 0,
    .replyAssembled) := by decide +kernel
theorem test_writeI32_2 : served false [0x0A#8, 0x05#8, 0x11#8, 0x22#8, 0x33#8, 0x44#8, 0x55#8, 0x66#8, 0x77#8,
    0x88#8] = some ([.write ⟨5#32, .i32 0x44332211#32⟩, .write ⟨6#32, .i32 0x88776655#32⟩], [], 0, .idle) :=
    by decide +kernel
theorem test_writeI32_2_rejected : served false [0x0A#8, 0x1F#8, 0x11#8, 0x22#8, 0x33#8, 0x44#8, 0x55#8, 0x66#8,
    0x77#8, 0x88#8] = some ([.write ⟨31#32, .i32 0x44332211#32⟩, .write ⟨32#32, .i32 0x88776655#32⟩], [0x54#8, 0xAB#8,
    0x01#8, 0x00#8, 0x03#8, 0x30#8, 0x20#8, 0x07#8, 0xCF#8, 0x16#8], 0, .replyAssembled) := by decide +kernel
theorem test_writeI32_3 : served false [0x0B#8, 0x05#8, 0x11#8, 0x22#8, 0x33#8, 0x44#8, 0x55#8, 0x66#8, 0x77#8,
    0x88#8, 0x7F#8, 0x00#8, 0x00#8, 0x00#8] = some ([.write ⟨5#32, .i32 0x44332211#32⟩, .write ⟨6#32, .i32
    0x88776655#32⟩, .write ⟨7#32, .i32 0x0000007F#32⟩], [], 0, .idle) := by decide +kernel
theorem test_writeI32_3_rejected : served false [0x0B#8, 0x1E#8, 0x11#8, 0x22#8, 0x33#8, 0x44#8, 0x55#8, 0x66#8,
    0x77#8, 0x88#8, 0x7F#8, 0x00#8, 0x00#8, 0x00#8] = some ([.write ⟨30#32, .i32 0x44332211#32⟩, .write ⟨31#32, .i32
    0x88776655#32⟩, .write ⟨32#32, .i32 0x0000007F#32⟩], [0x54#8, 0xAB#8, 0x01#8, 0x00#8, 0x03#8, 0x30#8, 0x20#8,
    0x07#8, 0xCF#8, 0x16#8], 0, .replyAssembled) := by decide +kernel
theorem test_writeF32N : served false [0x0C#8, 0x04#8, 0x10#8, 0x00#8, 0x00#8, 0x80#8, 0x3F#8, 0x00#8, 0x00#8, 0x00#8,
    0xC0#8, 0x00#8, 0x00#8, 0x00#8, 0x3F#8, 0x00#8, 0x00#8, 0xC0#8, 0x7F#8] = some ([.write ⟨16#32, .f32
    0x3F800000#32⟩, .write ⟨17#32, .f32 0xC0000000#32⟩, .write ⟨18#32, .f32 0x3F000000#32⟩, .write ⟨19#32, .f32
    0x7FC00000#32⟩], [], 0, .idle) := by decide +kernel
theorem test_writeF32N_rejected : served false [0x0C#8, 0x02#8, 0x1F#8, 0x00#8, 0x00#8, 0x80#8, 0x3F#8, 0x00#8,
    0x00#8, 0x00#8, 0xC0#8] = some ([.write ⟨31#32, .f32 0x3F800000#32⟩, .write ⟨32#32, .f32 0xC0000000#32⟩], [0x54#8,
    0xAB#8, 0x01#8, 0x00#8, 0x03#8, 0x30#8, 0x20#8, 0x07#8, 0xCF#8, 0x16#8], 0, .replyAssembled) := by decide +kernel
theorem test_writeF32_1 : served false [0x0D#8, 0x05#8, 0x00#8, 0x00#8, 0x80#8, 0x3F#8] = some ([.write ⟨5#32, .f32
    0x3F800000#32⟩], [], 0, .idle) := by decide +kernel
theorem test_writeF32_1_rejected : served false [0x0D#8, 0x20#8, 0x00#8, 0x00#8, 0x80#8, 0x3F#8] = some ([.write
    ⟨32#32, .f32 0x3F800000#32⟩], [0x54#8, 0xAB#8, 0x01#8, 0x00#8, 0x03#8, 0x30#8, 0x20#8, 0x07#8, 0xCF#8, 0x16#8], 0,
    .replyAssembled) := by decide +kernel
theorem test_writeF32_2 : served false [0x0E#8, 0x05#8, 0x00#8, 0x00#8, 0x80#8, 0x3F#8, 0x00#8, 0x00#8, 0x00#8,
    0xC0#8] = some ([.write ⟨5#32, .f32 0x3F800000#32⟩, .write ⟨6#32, .f32 0xC0000000#32⟩], [], 0, .idle) :=
    by decide +kernel
theorem test_writeF32_2_rejected : served false [0x0E#8, 0x1F#8, 0x00#8, 0x00#8, 0x80#8, 0x3F#8, 0x00#8, 0x00#8,
    0x00#8, 0xC0#8] = some ([.write ⟨31#32, .f32 0x3F800000#32⟩, .write ⟨32#32, .f32 0xC0000000#32⟩], [0x54#8, 0xAB#8,
    0x01#8, 0x00#8, 0x03#8, 0x30#8, 0x20#8, 0x07#8, 0xCF#8, 0x16#8], 0, .replyAssembled) := by decide +kernel
theorem test_writeF32_3 : served false [0x0F#8, 0x05#8, 0x00#8, 0x00#8, 0x80#8, 0x3F#8, 0x00#8, 0x00#8, 0x00#8,
    0xC0#8, 0x00#8, 0x00#8, 0x00#8, 0x3F#8] = some ([.write ⟨5#32, .f32 0x3F800000#32⟩, .write ⟨6#32, .f32
    0xC0000000#32⟩, .write ⟨7#32, .f32 0x3F000000#32⟩], [], 0, .idle) := by decide +kernel
theorem test_writeF32_3_rejected : served false [0x0F#8, 0x1E#8, 0x00#8, 0x00#8, 0x80#8, 0x3F#8, 0x00#8, 0x00#8,
    0x00#8, 0xC0#8, 0x00#8, 0x00#8, 0x00#8, 0x3F#8] = some ([.write ⟨30#32, .f32 0x3F800000#32⟩, .write ⟨31#32, .f32
    0xC0000000#32⟩, .write ⟨32#32, .f32 0x3F000000#32⟩], [0x54#8, 0xAB#8, 0x01#8, 0x00#8, 0x03#8, 0x30#8, 0x20#8,
    0x07#8, 0xCF#8, 0x16#8], 0, .replyAssembled) := by decide +kernel

/-! ### Reads: the example and the corner case of 45_dispatch R316 to R331 -/

theorem test_readI8N : served false [0x10#8, 0x04#8, 0x1E#8] = some ([.read 30#32 .i8, .read 31#32 .i8,
    .read 32#32 .i8, .read 33#32 .i8], [0x54#8, 0xAB#8, 0x01#8, 0x00#8, 0x0A#8, 0x22#8, 0x1E#8, 0x1E#8, 0x1F#8,
    0x31#8, 0x20#8, 0x03#8, 0x21#8, 0x21#8, 0x21#8, 0xCA#8, 0xCA#8], 0, .replyAssembled) := by decide +kernel
theorem test_readI8N_corner : served false [0x10#8, 0x00#8, 0x09#8] = some ([], [0x54#8, 0xAB#8, 0x01#8, 0x00#8,
    0x00#8, 0x61#8, 0x4E#8], 0, .replyAssembled) := by decide +kernel
theorem test_readI8_1 : served false [0x11#8, 0x09#8] = some ([.read 9#32 .i8], [0x54#8, 0xAB#8, 0x01#8, 0x00#8,
    0x03#8, 0x21#8, 0x09#8, 0x09#8, 0x2C#8, 0x3F#8], 0, .replyAssembled) := by decide +kernel
theorem test_readI8_1_corner : served false [0x11#8, 0x20#8] = some ([.read 32#32 .i8], [0x54#8, 0xAB#8, 0x01#8,
    0x00#8, 0x03#8, 0x31#8, 0x20#8, 0x03#8, 0x7B#8, 0x61#8], 0, .replyAssembled) := by decide +kernel
theorem test_readI8_2 : served false [0x12#8, 0x09#8] = some ([.read 9#32 .i8, .read 10#32 .i8], [0x54#8, 0xAB#8,
    0x01#8, 0x00#8, 0x04#8, 0x22#8, 0x09#8, 0x09#8, 0x0A#8, 0xFE#8, 0xB6#8], 0, .replyAssembled) := by decide +kernel
theorem test_readI8_2_corner : served false [0x12#8, 0x1F#8] = some ([.read 31#32 .i8, .read 32#32 .i8], [0x54#8,
    0xAB#8, 0x01#8, 0x00#8, 0x06#8, 0x21#8, 0x1F#8, 0x1F#8, 0x31#8, 0x20#8, 0x03#8, 0x49#8, 0xE2#8], 0,
    .replyAssembled) := by decide +kernel
theorem test_readI8_3 : served false [0x13#8, 0x09#8] = some ([.read 9#32 .i8, .read 10#32 .i8, .read 11#32 .i8],
    [0x54#8, 0xAB#8, 0x01#8, 0x00#8, 0x05#8, 0x23#8, 0x09#8, 0x09#8, 0x0A#8, 0x0B#8, 0x87#8, 0x67#8], 0,
    .replyAssembled) := by decide +kernel
theorem test_readI8_3_corner : served false [0x13#8, 0x1E#8] = some ([.read 30#32 .i8, .read 31#32 .i8,
    .read 32#32 .i8], [0x54#8, 0xAB#8, 0x01#8, 0x00#8, 0x07#8, 0x22#8, 0x1E#8, 0x1E#8, 0x1F#8, 0x31#8, 0x20#8, 0x03#8,
    0x5D#8, 0x66#8], 0, .replyAssembled) := by decide +kernel
theorem test_readI16N : served false [0x14#8, 0x04#8, 0x1E#8] = some ([.read 30#32 .i16, .read 31#32 .i16,
    .read 32#32 .i16, .read 33#32 .i16], [0x54#8, 0xAB#8, 0x01#8, 0x00#8, 0x0D#8, 0x26#8, 0x1E#8, 0x1E#8, 0x1E#8,
    0x1F#8, 0x1F#8, 0x31#8, 0x20#8, 0x03#8, 0x25#8, 0x21#8, 0x21#8, 0x21#8, 0xB8#8, 0x03#8], 0, .replyAssembled) :=
    by decide +kernel
theorem test_readI16N_corner : served false [0x14#8, 0x00#8, 0x09#8] = some ([], [0x54#8, 0xAB#8, 0x01#8, 0x00#8,
    0x00#8, 0x61#8, 0x4E#8], 0, .replyAssembled) := by decide +kernel
theorem test_readI16_1 : served false [0x15#8, 0x09#8] = some ([.read 9#32 .i16], [0x54#8, 0xAB#8, 0x01#8, 0x00#8,
    0x04#8, 0x25#8, 0x09#8, 0x09#8, 0x09#8, 0xB0#8, 0xD7#8], 0, .replyAssembled) := by decide +kernel
theorem test_readI16_1_corner : served false [0x15#8, 0x20#8] = some ([.read 32#32 .i16], [0x54#8, 0xAB#8, 0x01#8,
    0x00#8, 0x03#8, 0x31#8, 0x20#8, 0x03#8, 0x7B#8, 0x61#8], 0, .replyAssembled) := by decide +kernel
theorem test_readI16_2 : served false [0x16#8, 0x09#8] = some ([.read 9#32 .i16, .read 10#32 .i16], [0x54#8, 0xAB#8,
    0x01#8, 0x00#8, 0x06#8, 0x26#8, 0x09#8, 0x09#8, 0x09#8, 0x0A#8, 0x0A#8, 0xE9#8, 0xCB#8], 0, .replyAssembled) :=
    by decide +kernel
theorem test_readI16_2_corner : served false [0x16#8, 0x1F#8] = some ([.read 31#32 .i16, .read 32#32 .i16], [0x54#8,
    0xAB#8, 0x01#8, 0x00#8, 0x07#8, 0x25#8, 0x1F#8, 0x1F#8, 0x1F#8, 0x31#8, 0x20#8, 0x03#8, 0xE8#8, 0x90#8], 0,
    .replyAssembled) := by decide +kernel
theorem test_readI16_3 : served false [0x17#8, 0x09#8] = some ([.read 9#32 .i16, .read 10#32 .i16, .read 11#32 .i16],
    [0x54#8, 0xAB#8, 0x01#8, 0x00#8, 0x08#8, 0x27#8, 0x09#8, 0x09#8, 0x09#8, 0x0A#8, 0x0A#8, 0x0B#8, 0x0B#8, 0x9C#8,
    0xFF#8], 0, .replyAssembled) := by decide +kernel
theorem test_readI16_3_corner : served false [0x17#8, 0x1E#8] = some ([.read 30#32 .i16, .read 31#32 .i16,
    .read 32#32 .i16], [0x54#8, 0xAB#8, 0x01#8, 0x00#8, 0x09#8, 0x26#8, 0x1E#8, 0x1E#8, 0x1E#8, 0x1F#8, 0x1F#8,
    0x31#8, 0x20#8, 0x03#8, 0x34#8, 0x68#8], 0, .replyAssembled) := by decide +kernel
theorem test_readI32N : served false [0x18#8, 0x04#8, 0x1E#8] = some ([.read 30#32 .i32, .read 31#32 .i32,
    .read 32#32 .i32, .read 33#32 .i32], [0x54#8, 0xAB#8, 0x01#8, 0x00#8, 0x13#8, 0x2A#8, 0x1E#8, 0x1E#8, 0x1E#8,
    0x1E#8, 0x1E#8, 0x1F#8, 0x1F#8, 0x1F#8, 0x1F#8, 0x31#8, 0x20#8, 0x03#8, 0x29#8, 0x21#8, 0x21#8, 0x21#8, 0x21#8,
    0x21#8, 0x44#8, 0xCC#8], 0, .replyAssembled) := by decide +kernel
theorem test_readI32N_corner : served false [0x18#8, 0x00#8, 0x09#8] = some ([], [0x54#8, 0xAB#8, 0x01#8, 0x00#8,
    0x00#8, 0x61#8, 0x4E#8], 0, .replyAssembled) := by decide +kernel
theorem test_readI32_1 : served false [0x19#8, 0x09#8] = some ([.read 9#32 .i32], [0x54#8, 0xAB#8, 0x01#8, 0x00#8,
    0x06#8, 0x29#8, 0x09#8, 0x09#8, 0x09#8, 0x09#8, 0x09#8, 0xDA#8, 0x6B#8], 0, .replyAssembled) := by decide +kernel
theorem test_readI32_1_corner : served false [0x19#8, 0x20#8] = some ([.read 32#32 .i32], [0x54#8, 0xAB#8, 0x01#8,
    0x00#8, 0x03#8, 0x31#8, 0x20#8, 0x03#8, 0x7B#8, 0x61#8], 0, .replyAssembled) := by decide +kernel
theorem test_readI32_2 : served false [0x1A#8, 0x09#8] = some ([.read 9#32 .i32, .read 10#32 .i32], [0x54#8, 0xAB#8,
    0x01#8, 0x00#8, 0x0A#8, 0x2A#8, 0x09#8, 0x09#8, 0x09#8, 0x09#8, 0x09#8, 0x0A#8, 0x0A#8, 0x0A#8, 0x0A#8, 0x75#8,
    0x46#8], 0, .replyAssembled) := by decide +kernel
theorem test_readI32_2_corner : served false [0x1A#8, 0x1F#8] = some ([.read 31#32 .i32, .read 32#32 .i32], [0x54#8,
    0xAB#8, 0x01#8, 0x00#8, 0x09#8, 0x29#8, 0x1F#8, 0x1F#8, 0x1F#8, 0x1F#8, 0x1F#8, 0x31#8, 0x20#8, 0x03#8, 0x72#8,
    0x4A#8], 0, .replyAssembled) := by decide +kernel
theorem test_readI32_3 : served false [0x1B#8, 0x09#8] = some ([.read 9#32 .i32, .read 10#32 .i32, .read 11#32 .i32],
    [0x54#8, 0xAB#8, 0x01#8, 0x00#8, 0x0E#8, 0x2B#8, 0x09#8, 0x09#8, 0x09#8, 0x09#8, 0x09#8, 0x0A#8, 0x0A#8, 0x0A#8,
    0x0A#8, 0x0B#8, 0x0B#8, 0x0B#8, 0x0B#8, 0x51#8, 0x19#8], 0, .replyAssembled) := by decide +kernel
theorem test_readI32_3_corner : served false [0x1B#8, 0x1E#8] = some ([.read 30#32 .i32, .read 31#32 .i32,
    .read 32#32 .i32], [0x54#8, 0xAB#8, 0x01#8, 0x00#8, 0x0D#8, 0x2A#8, 0x1E#8, 0x1E#8, 0x1E#8, 0x1E#8, 0x1E#8,
    0x1F#8, 0x1F#8, 0x1F#8, 0x1F#8, 0x31#8, 0x20#8, 0x03#8, 0x0F#8, 0xA8#8], 0, .replyAssembled) := by decide +kernel
theorem test_readF32N : served false [0x1C#8, 0x04#8, 0x1E#8] = some ([.read 30#32 .f32, .read 31#32 .f32,
    .read 32#32 .f32, .read 33#32 .f32], [0x54#8, 0xAB#8, 0x01#8, 0x00#8, 0x13#8, 0x2E#8, 0x1E#8, 0x1E#8, 0x1E#8,
    0x1E#8, 0x1E#8, 0x1F#8, 0x1F#8, 0x1F#8, 0x1F#8, 0x31#8, 0x20#8, 0x03#8, 0x2D#8, 0x21#8, 0x21#8, 0x21#8, 0x21#8,
    0x21#8, 0xFA#8, 0x82#8], 0, .replyAssembled) := by decide +kernel
theorem test_readF32N_corner : served false [0x1C#8, 0x00#8, 0x09#8] = some ([], [0x54#8, 0xAB#8, 0x01#8, 0x00#8,
    0x00#8, 0x61#8, 0x4E#8], 0, .replyAssembled) := by decide +kernel
theorem test_readF32_1 : served false [0x1D#8, 0x09#8] = some ([.read 9#32 .f32], [0x54#8, 0xAB#8, 0x01#8, 0x00#8,
    0x06#8, 0x2D#8, 0x09#8, 0x09#8, 0x09#8, 0x09#8, 0x09#8, 0x7B#8, 0x6D#8], 0, .replyAssembled) := by decide +kernel
theorem test_readF32_1_corner : served false [0x1D#8, 0x20#8] = some ([.read 32#32 .f32], [0x54#8, 0xAB#8, 0x01#8,
    0x00#8, 0x03#8, 0x31#8, 0x20#8, 0x03#8, 0x7B#8, 0x61#8], 0, .replyAssembled) := by decide +kernel
theorem test_readF32_2 : served false [0x1E#8, 0x09#8] = some ([.read 9#32 .f32, .read 10#32 .f32], [0x54#8, 0xAB#8,
    0x01#8, 0x00#8, 0x0A#8, 0x2E#8, 0x09#8, 0x09#8, 0x09#8, 0x09#8, 0x09#8, 0x0A#8, 0x0A#8, 0x0A#8, 0x0A#8, 0x40#8,
    0xEB#8], 0, .replyAssembled) := by decide +kernel
theorem test_readF32_2_corner : served false [0x1E#8, 0x1F#8] = some ([.read 31#32 .f32, .read 32#32 .f32], [0x54#8,
    0xAB#8, 0x01#8, 0x00#8, 0x09#8, 0x2D#8, 0x1F#8, 0x1F#8, 0x1F#8, 0x1F#8, 0x1F#8, 0x31#8, 0x20#8, 0x03#8, 0x9D#8,
    0xD6#8], 0, .replyAssembled) := by decide +kernel
theorem test_readF32_3 : served false [0x1F#8, 0x09#8] = some ([.read 9#32 .f32, .read 10#32 .f32, .read 11#32 .f32],
    [0x54#8, 0xAB#8, 0x01#8, 0x00#8, 0x0E#8, 0x2F#8, 0x09#8, 0x09#8, 0x09#8, 0x09#8, 0x09#8, 0x0A#8, 0x0A#8, 0x0A#8,
    0x0A#8, 0x0B#8, 0x0B#8, 0x0B#8, 0x0B#8, 0xF4#8, 0xE4#8], 0, .replyAssembled) := by decide +kernel
theorem test_readF32_3_corner : served false [0x1F#8, 0x1E#8] = some ([.read 30#32 .f32, .read 31#32 .f32,
    .read 32#32 .f32], [0x54#8, 0xAB#8, 0x01#8, 0x00#8, 0x0D#8, 0x2E#8, 0x1E#8, 0x1E#8, 0x1E#8, 0x1E#8, 0x1E#8,
    0x1F#8, 0x1F#8, 0x1F#8, 0x1F#8, 0x31#8, 0x20#8, 0x03#8, 0xA2#8, 0xAD#8], 0, .replyAssembled) := by decide +kernel

/-! ### Replies: the examples of 44_subframe_codec R225 to R242 -/

theorem test_replyI8N : parsed [0x20#8, 0x04#8, 0x10#8, 0x11#8, 0x22#8, 0x33#8, 0xFF#8] = some ([(16#32, .val (.i8
    0x11#8)), (17#32, .val (.i8 0x22#8)), (18#32, .val (.i8 0x33#8)), (19#32, .val (.i8 0xFF#8))], 7#32) :=
    by decide +kernel
theorem test_replyI8_1 : parsed [0x21#8, 0x05#8, 0x11#8] = some ([(5#32, .val (.i8 0x11#8))], 3#32) :=
    by decide +kernel
theorem test_replyI8_2 : parsed [0x22#8, 0x05#8, 0x11#8, 0x22#8] = some ([(5#32, .val (.i8 0x11#8)), (6#32, .val (.i8
    0x22#8))], 4#32) := by decide +kernel
theorem test_replyI8_3 : parsed [0x23#8, 0x05#8, 0x11#8, 0x22#8, 0x33#8] = some ([(5#32, .val (.i8 0x11#8)), (6#32,
    .val (.i8 0x22#8)), (7#32, .val (.i8 0x33#8))], 5#32) := by decide +kernel
theorem test_replyI16N : parsed [0x24#8, 0x04#8, 0x10#8, 0x01#8, 0x11#8, 0x02#8, 0x22#8, 0x03#8, 0x33#8, 0x04#8,
    0x80#8] = some ([(16#32, .val (.i16 0x1101#16)), (17#32, .val (.i16 0x2202#16)), (18#32, .val (.i16 0x3303#16)),
    (19#32, .val (.i16 0x8004#16))], 11#32) := by decide +kernel
theorem test_replyI16_1 : parsed [0x25#8, 0x05#8, 0x01#8, 0x11#8] = some ([(5#32, .val (.i16 0x1101#16))], 4#32) :=
    by decide +kernel
theorem test_replyI16_2 : parsed [0x26#8, 0x05#8, 0x01#8, 0x11#8, 0x02#8, 0x22#8] = some ([(5#32, .val (.i16
    0x1101#16)), (6#32, .val (.i16 0x2202#16))], 6#32) := by decide +kernel
theorem test_replyI16_3 : parsed [0x27#8, 0x05#8, 0x01#8, 0x11#8, 0x02#8, 0x22#8, 0x03#8, 0x33#8] = some ([(5#32, .val
    (.i16 0x1101#16)), (6#32, .val (.i16 0x2202#16)), (7#32, .val (.i16 0x3303#16))], 8#32) := by decide +kernel
theorem test_replyI32N : parsed [0x28#8, 0x04#8, 0x10#8, 0x11#8, 0x22#8, 0x33#8, 0x44#8, 0x55#8, 0x66#8, 0x77#8,
    0x88#8, 0x7F#8, 0x00#8, 0x00#8, 0x00#8, 0xFF#8, 0xFF#8, 0xFF#8, 0xFF#8] = some ([(16#32, .val (.i32
    0x44332211#32)), (17#32, .val (.i32 0x88776655#32)), (18#32, .val (.i32 0x0000007F#32)), (19#32, .val (.i32
    0xFFFFFFFF#32))], 19#32) := by decide +kernel
theorem test_replyI32_1 : parsed [0x29#8, 0x05#8, 0x11#8, 0x22#8, 0x33#8, 0x44#8] = some ([(5#32, .val (.i32
    0x44332211#32))], 6#32) := by decide +kernel
theorem test_replyI32_2 : parsed [0x2A#8, 0x05#8, 0x11#8, 0x22#8, 0x33#8, 0x44#8, 0x55#8, 0x66#8, 0x77#8, 0x88#8] =
    some ([(5#32, .val (.i32 0x44332211#32)), (6#32, .val (.i32 0x88776655#32))], 10#32) := by decide +kernel
theorem test_replyI32_3 : parsed [0x2B#8, 0x05#8, 0x11#8, 0x22#8, 0x33#8, 0x44#8, 0x55#8, 0x66#8, 0x77#8, 0x88#8,
    0x7F#8, 0x00#8, 0x00#8, 0x00#8] = some ([(5#32, .val (.i32 0x44332211#32)), (6#32, .val (.i32 0x88776655#32)),
    (7#32, .val (.i32 0x0000007F#32))], 14#32) := by decide +kernel
theorem test_replyF32N : parsed [0x2C#8, 0x04#8, 0x10#8, 0x00#8, 0x00#8, 0x80#8, 0x3F#8, 0x00#8, 0x00#8, 0x00#8,
    0xC0#8, 0x00#8, 0x00#8, 0x00#8, 0x3F#8, 0x00#8, 0x00#8, 0xC0#8, 0x7F#8] = some ([(16#32, .val (.f32
    0x3F800000#32)), (17#32, .val (.f32 0xC0000000#32)), (18#32, .val (.f32 0x3F000000#32)), (19#32, .val (.f32
    0x7FC00000#32))], 19#32) := by decide +kernel
theorem test_replyF32_1 : parsed [0x2D#8, 0x05#8, 0x00#8, 0x00#8, 0x80#8, 0x3F#8] = some ([(5#32, .val (.f32
    0x3F800000#32))], 6#32) := by decide +kernel
theorem test_replyF32_2 : parsed [0x2E#8, 0x05#8, 0x00#8, 0x00#8, 0x80#8, 0x3F#8, 0x00#8, 0x00#8, 0x00#8, 0xC0#8] =
    some ([(5#32, .val (.f32 0x3F800000#32)), (6#32, .val (.f32 0xC0000000#32))], 10#32) := by decide +kernel
theorem test_replyF32_3 : parsed [0x2F#8, 0x05#8, 0x00#8, 0x00#8, 0x80#8, 0x3F#8, 0x00#8, 0x00#8, 0x00#8, 0xC0#8,
    0x00#8, 0x00#8, 0x00#8, 0x3F#8] = some ([(5#32, .val (.f32 0x3F800000#32)), (6#32, .val (.f32 0xC0000000#32)),
    (7#32, .val (.f32 0x3F000000#32))], 14#32) := by decide +kernel
theorem test_writeError : parsed [0x30#8, 0x06#8, 0x02#8] = some ([(6#32, .err 2#32)], 3#32) := by decide +kernel
theorem test_readError : parsed [0x31#8, 0x20#8, 0xAC#8, 0x02#8] = some ([(32#32, .err 300#32)], 4#32) :=
    by decide +kernel

/-! ### Dispatch, tunnel and nop subframes -/

/-- The last byte of a write is missing: no store call, counted, empty reply (R300). -/
theorem test_srvDispatch_short : served true [0x00#8, 0x04#8, 0x10#8, 0x11#8, 0x22#8, 0x33#8] =
    some ([], [0x54#8, 0xAB#8, 0x01#8, 0x00#8, 0x00#8, 0x61#8, 0x4E#8], 1, .replyAssembled) := by decide +kernel

/-- A frame to node 2 (R286): counted, no reply, the read armed again. -/
theorem test_srvDispatch_wrong_id :
    leads (exec .srvDispatch { received true [] with rxfDst := 0x02#8 }) (fun t =>
      t.stats.wrongId = 1 ∧ t.txState = .idle ∧ t.rxState = .readingMore ∧ t.srvState = .idle) = true := by
  decide +kernel

/-- R333: of six bytes the FIFO of four takes four. -/
theorem test_tunnelC2s :
    leads (exec .srvDispatch { received false [0x40#8, 0x09#8, 0x06#8, 0x61#8, 0x62#8, 0x63#8, 0x64#8, 0x65#8, 0x66#8] with
        cfg := { exCfg with tunnelRxCap := 4 } }) (fun t =>
      t.rxq 9 = [0x61#8, 0x62#8, 0x63#8, 0x64#8] ∧ t.stats.receiveOverrun = 1 ∧
        t.txBuf = [0x54#8, 0xAB#8, 0x01#8, 0x00#8, 0x03#8, 0x41#8, 0x09#8, 0x00#8, 0x6E#8, 0x35#8]) = true := by
  decide +kernel

/-- R332: channel 5 is none of the block's. -/
theorem test_tunnelC2s_unknown :
    leads (exec .srvDispatch (received true [0x40#8, 0x05#8, 0x01#8, 0x41#8])) (fun t =>
      t.stats.unknownSubframe = 1 ∧
        t.txBuf = [0x54#8, 0xAB#8, 0x01#8, 0x00#8, 0x00#8, 0x61#8, 0x4E#8]) = true := by
  decide +kernel

/-- R334: three of five pending bytes. -/
theorem test_tunnelPoll :
    leads (exec .srvDispatch
        ((received true [0x42#8, 0x09#8, 0x03#8]).setTxq 9 [0x68#8, 0x65#8, 0x6C#8, 0x6C#8, 0x6F#8])) (fun t =>
      t.txq 9 = [0x6C#8, 0x6F#8] ∧
        t.txBuf = [0x54#8, 0xAB#8, 0x01#8, 0x00#8, 0x06#8, 0x41#8, 0x09#8, 0x03#8, 0x68#8, 0x65#8, 0x6C#8, 0x34#8, 0x8F#8])
      = true := by
  decide +kernel

/-- R243: a tunnel reply ends the reply parse in front of it. -/
theorem test_tunnelS2c : parsed [0x29#8, 0x09#8, 0x06#8, 0x07#8, 0x08#8, 0x09#8, 0x41#8, 0x09#8, 0x02#8, 0x68#8, 0x69#8] =
    some ([(9#32, .val (.i32 0x09080706#32))], 6#32) := by decide +kernel

/-- R291: in a request it is unknown. -/
theorem test_tunnelS2c_request :
    leads (exec .srvDispatch (received false [0x11#8, 0x09#8, 0x41#8, 0x09#8, 0x00#8])) (fun t =>
      t.stats.unknownSubframe = 1 ∧ t.replyBuf = [0x21#8, 0x09#8, 0x09#8]) = true := by decide +kernel

/-- R336: nops around a read. -/
theorem test_nop : served false [0x50#8, 0x11#8, 0x09#8, 0x50#8, 0x50#8] =
    some ([.read 9#32 .i8], [0x54#8, 0xAB#8, 0x01#8, 0x00#8, 0x03#8, 0x21#8, 0x09#8, 0x09#8, 0x2C#8, 0x3F#8], 0,
      .replyAssembled) := by
  decide +kernel

/-- R290: the second subframe's reply does not fit, the third is not reached; what was placed is sent. -/
theorem test_read_missing :
    leads (exec .srvDispatch (received false [0x11#8, 0x09#8, 0x18#8, 0x10#8, 0x00#8, 0x11#8, 0x0A#8])) (fun t =>
      t.replyBuf = [0x21#8, 0x09#8, 0x09#8] ∧ t.stats.missingSubframe = 1) = true := by decide +kernel

/-- R295 with `PARTIAL_WRITE_ON_TRUNCATION`: the one complete value is written and rejected; its error does not fit
and is counted missing (R290), and the subframe is malformed. -/
theorem test_write_partial_full :
    leads (step { (received false [0x02#8, 0x20#8, 0x11#8]).parsing with
        cfg := { exCfg with partialWrite := true }, replyBuf := List.replicate 62 0#8 }) (fun t =>
      t.storeLog = [.write ⟨32#32, .i8 0x11#8⟩] ∧ t.stats.missingSubframe = 1 ∧ t.stats.malformedSubframe = 1 ∧
        t.replyBuf.length = 62 ∧ t.abort = true) = true := by decide +kernel

/-! ### Frames in the receive buffer (43_frame_sync R188, R189) -/

/-- A scan of these bytes: what is left, the mismatches counted, the frame's payload if one was delivered. -/
def scanned (bytes : List Byte) : Option (List Byte × Nat × Option (List Byte)) :=
  match step { ex with rxBuf := bytes, rxState := .awaitFrame, rxCap := 16 } with
  | .next t =>
    some (t.rxBuf, t.stats.checksumMismatch, if t.rxState = .idle then some t.rxfPayload else none)
  | _ => none

theorem test_frame : scanned [0x54#8, 0xAB#8, 0x01#8, 0x02#8, 0x01#8, 0x41#8, 0xBE#8, 0xCD#8, 0x54#8] =
    some ([0x54#8], 0, some [0x41#8]) := by decide +kernel

theorem test_frame_mismatch : leads (exec (.frame 1#7 false 2#8 ⟨0#32, 1⟩ [] 0x2903#16)
    { ex with rxBuf := [0x54#8, 0xAB#8, 0x01#8, 0x02#8, 0x00#8, 0x03#8, 0x29#8], rxState := .awaitFrame }) (fun t =>
      t.rxBuf = [0x01#8, 0x02#8, 0x00#8, 0x03#8, 0x29#8] ∧ t.stats.checksumMismatch = 1 ∧ t.rxState = .awaitFrame) =
    true := by decide +kernel

/-! ### Host commands -/

/-- 41_crc R141, R143: the spec's values at the defaults. -/
theorem test_crcByte : leads (exec (.crcByte 0x41#8) { ex with crcReg := 0xFFFF#16 }) (fun t => t.crcReg = 0xB915#16) =
    true := by decide +kernel
theorem test_crc_message : crc16 exCfg [0x31#8, 0x32#8, 0x33#8, 0x34#8, 0x35#8, 0x36#8, 0x37#8, 0x38#8, 0x39#8] =
    0x29B1#16 := by decide +kernel
theorem test_crcInit : leads (exec .crcInit { ex with crcReg := 0x1234#16 }) (fun t => t.crcReg = 0xFFFF#16) = true := by
  decide +kernel
/-- 10_state R33: reflection, then the output XOR. -/
theorem test_crcRead : returned .crcRead
    { ex with crcReg := 0x0001#16, cfg := { exCfg with crcRefout := true, crcXorout := 0xFFFF#16 } } =
    some (.crc 0x7FFF#16) := by decide +kernel
/-- 41_crc R148. -/
theorem test_crcCheck : returned (.crcCheck 0xDBF5#16) { ex with crcReg := 0xDBF5#16 } = some (.check true) := by
  decide +kernel
theorem test_crcCheck_swapped : returned (.crcCheck 0xF5DB#16) { ex with crcReg := 0xDBF5#16 } = some (.check false) := by
  decide +kernel
/-- 40_varint R125, R120. -/
theorem test_venc : returned (.venc 16384#32) ex = some (.encoded [0x80#8, 0x80#8, 0x01#8]) := by decide +kernel
theorem test_venc_largest : returned (.venc 0xFFFFFFFF#32) ex =
    some (.encoded [0xFF#8, 0xFF#8, 0xFF#8, 0xFF#8, 0x0F#8]) := by decide +kernel
theorem test_vdecClr : leads (exec .vdecClr { ex with vdSt := .partialValue, vdCnt := 1, vdAcc := 5#32 }) (fun t =>
    t.vdSt = .empty ∧ t.vdCnt = 0 ∧ t.vdAcc = 0#32) = true := by decide +kernel
/-- 40_varint R128. -/
theorem test_vdecByte : returned (.vdecByte 0x02#8) { ex with vdSt := .partialValue, vdCnt := 1, vdAcc := 0x2C#32 } =
    some (.varint .done 300#32 2) := by decide +kernel
theorem test_vdecByte_clamps : returned (.vdecByte 0x80#8) { ex with vdSt := .partialValue, vdCnt := 4 } =
    some (.varint .clamped 0xFFFFFFFF#32 5) := by decide +kernel
/-- 42_frame_codec R166. -/
theorem test_txFrames : leads (exec (.txFrames [⟨1#7, false, 2#8, []⟩]) ex) (fun t =>
    t.txBuf = [0x54#8, 0xAB#8, 0x01#8, 0x02#8, 0x00#8, 0x03#8, 0x28#8] ∧ t.txState = .busy) = true := by decide +kernel
theorem test_txFrames_oversize : leads (exec (.txFrames [⟨1#7, false, 2#8, List.replicate 65 0#8⟩]) ex) (fun t =>
    t.fault = 0x4#32 ∧ t.completion = some ⟨.tx, .failed, .sent 0⟩ ∧ t.txState = .idle) = true := by decide +kernel
/-- 43_frame_sync R190. -/
theorem test_rxArm : completes (.rxArm 16#32)
    { ex with rxBuf := [0x54#8, 0xAB#8, 0x01#8, 0x02#8, 0x00#8, 0x03#8, 0x28#8] } =
    some (some ⟨.rx, .ok, .frame 1#7 false 2#8 0#32 []⟩, .idle) := by decide +kernel
theorem test_rxArm_capacity : leads (exec (.rxArm 65#32) ex) (fun t => t.fault = 0x40#32 ∧ t.rxState = .idle) = true := by
  decide +kernel
/-- 43_frame_sync R195. -/
theorem test_rxCancel : completes .rxCancel { ex with rxState := .readingMore, rxBuf := [0x54#8] } =
    some (some ⟨.rx, .canceled, .none⟩, .idle) := by decide +kernel
/-- 45_dispatch R283, 10_state R32. -/
theorem test_srvStart : leads (exec .srvStart ex) (fun t => t.statusWord = 0x11#32 ∧ t.rxCap = 64) = true := by
  decide +kernel
theorem test_srvStart_again : leads (exec .srvStart { ex with srvEn := true }) (fun t => t.fault = 0x100#32) = true := by
  decide +kernel
/-- 10_state R32: one byte in the incremental decoder. -/
theorem test_csrRead : returned (.csrRead 0x01#8) { ex with vdSt := .partialValue, vdCnt := 1 } = some (.csr 0x240#32) := by
  decide +kernel
theorem test_csrRead_bad : leads (exec (.csrRead 0x04#8) ex) (fun t => t.fault = 0x20#32) = true := by decide +kernel
/-- 10_state R36. -/
theorem test_csrWrite : leads (exec (.csrWrite 0x00#8 0x181#32) ex) (fun t => t.nodeId = 0x81#8) = true := by
  decide +kernel
theorem test_csrWrite_read_only : leads (exec (.csrWrite 0x02#8 0#32) ex) (fun t => t.fault = 0x20#32) = true := by
  decide +kernel
/-- 44_subframe_codec R246 to R251. -/
theorem test_rqClear : leads (exec .rqClear { ex with rqBuf := [0x19#8, 0x09#8], rqRr := true }) (fun t =>
    t.rqBuf = [] ∧ t.rqRr = true) = true := by decide +kernel
theorem test_rqSetRr : leads (exec (.rqSetRr false) { ex with rqRr := true }) (fun t => t.rqRr = false) = true := by
  decide +kernel
theorem test_rqWrite : leads (exec (.rqWrite 5#32 .i16 [[0x01#8, 0x03#8], [0x03#8, 0x03#8], [0x05#8, 0x03#8]]) ex)
    (fun t => t.rqBuf = [0x07#8, 0x05#8, 0x01#8, 0x03#8, 0x03#8, 0x03#8, 0x05#8, 0x03#8]) = true := by decide +kernel
theorem test_rqWrite_width : leads (exec (.rqWrite 5#32 .i16 [[0x12#8]]) ex) (fun t => t.fault = 0x40#32 ∧ t.rqBuf = []) =
    true := by decide +kernel
theorem test_rqRead : leads (exec (.rqRead 256#32 .i8 5#32) ex) (fun t =>
    t.rqBuf = [0x10#8, 0x05#8, 0x80#8, 0x02#8] ∧ t.rqRr = true) = true := by decide +kernel
theorem test_rqRead_overflow : leads (exec (.rqRead 9#32 .i32 1#32) { ex with rqBuf := List.replicate 63 0#8 }) (fun t =>
    t.fault = 0x10#32 ∧ t.rqBuf.length = 63 ∧ t.rqRr = false) = true := by decide +kernel
theorem test_rqGet : returned .rqGet { ex with rqBuf := [0x19#8, 0x09#8], rqRr := true } =
    some (.request [0x19#8, 0x09#8] true) := by decide +kernel
/-- 44_subframe_codec R261, R244. -/
theorem test_rpParse : parsed [0x21#8, 0x05#8, 0x01#8, 0x21#8, 0x05#8, 0x02#8, 0x31#8, 0x05#8, 0x07#8] =
    some ([(5#32, .err 7#32)], 9#32) := by decide +kernel
theorem test_rpParse_nop : parsed [0x25#8, 0x1E#8, 0x1E#8, 0x1E#8, 0x31#8, 0x20#8, 0x03#8, 0x50#8, 0x21#8, 0x01#8, 0x09#8] =
    some ([(30#32, .val (.i16 0x1E1E#16)), (32#32, .err 3#32)], 7#32) := by decide +kernel

/-! ### Events -/

/-- 43_frame_sync R191: the last byte of a frame. -/
theorem test_rxByte : completes (.rxByte 0x28#8)
    { ex with rxState := .readingMore, rxCap := 16, rxBuf := [0x54#8, 0xAB#8, 0x01#8, 0x02#8, 0x00#8, 0x03#8] } =
    some (some ⟨.rx, .ok, .frame 1#7 false 2#8 0#32 []⟩, .idle) := by decide +kernel
/-- 43_frame_sync R189, 10_state R26: a capacity of 0. -/
theorem test_rxByte_truncated : completes (.rxByte 0xCD#8)
    { ex with
      rxState := .readingMore, rxCap := 0, rxBuf := [0x54#8, 0xAB#8, 0x01#8, 0x02#8, 0x01#8, 0x41#8, 0xBE#8] } =
    some (some ⟨.rx, .truncated, .frame 1#7 false 2#8 1#32 []⟩, .idle) := by decide +kernel
/-- 43_frame_sync R197, R196. -/
theorem test_rxTerr : completes (.rxTerr 3#32) { ex with rxState := .readingMore } =
    some (some ⟨.rx, .transportError 3#32, .none⟩, .idle) := by decide +kernel
theorem test_rxTimeout : completes .rxTimeout { ex with rxState := .readingMore } =
    some (some ⟨.rx, .timedOut, .none⟩, .idle) := by decide +kernel
theorem test_rxTimeout_disabled : completes .rxTimeout { ex with rxState := .readingMore, rxOwner := .server } =
    some (none, .readingMore) := by decide +kernel
/-- 42_frame_codec R167, R168: the last of seven bytes; an error after three. -/
theorem test_txTake : leads (exec .txTake
    { ex with
      txState := .busy, txPos := 6, txBuf := [0x54#8, 0xAB#8, 0x01#8, 0x02#8, 0x00#8, 0x03#8, 0x28#8] }) (fun t =>
      t.result = .byte 0x28#8 ∧ t.txState = .idle ∧ t.completion = some ⟨.tx, .ok, .sent 7⟩) = true := by decide +kernel
theorem test_txTerr : completes (.txTerr 5#32)
    { ex with
      txState := .busy, txPos := 3, txBuf := [0x54#8, 0xAB#8, 0x01#8, 0x02#8, 0x00#8, 0x03#8, 0x28#8] } =
    some (some ⟨.tx, .transportError 5#32, .sent 3⟩, .idle) := by decide +kernel
/-- 45_dispatch R337, R338. -/
theorem test_tRead : leads (exec (.tRead 9#7 3#32) (ex.setRxq 9 [0x74#8, 0x65#8, 0x73#8, 0x74#8])) (fun t =>
    t.result = .bytes [0x74#8, 0x65#8, 0x73#8] ∧ t.rxq 9 = [0x74#8]) = true := by decide +kernel
theorem test_tRead_bad : leads (exec (.tRead 5#7 1#32) ex) (fun t => t.fault = 0x80#32) = true := by decide +kernel
theorem test_tWrite : leads (exec (.tWrite 9#7 [0x68#8, 0x65#8, 0x6C#8]) (ex.setTxq 9 (List.replicate 14 1#8))) (fun t =>
    t.result = .accepted 2 ∧ (t.txq 9).length = 16) = true := by decide +kernel
theorem test_tWrite_full : leads (exec (.tWrite 9#7 [0x68#8]) (ex.setTxq 9 (List.replicate 16 1#8))) (fun t =>
    t.result = .none ∧ (t.txq 9).length = 16) = true := by decide +kernel

/-! ### States that meet the hypotheses of the statements -/

theorem leads_prop {o : Out} {P : State → Prop} [DecidablePred P] (h : leads o (fun t => decide (P t)) = true) :
    ∃ t, o = .next t ∧ P t :=
  (leads_next h).imp fun _ ht => ⟨ht.1, of_decide_eq_true ht.2⟩

/-- The agent at a port offers these bytes and has the turn. -/
def turn (s : State) (p : Port) (bytes : List Byte) : State := { s with offers := [⟨p, bytes⟩], sched := [.take p] }

theorem inv_turn {s : State} (h : s.Inv) (p : Port) (bytes : List Byte) : (turn s p bytes).Inv := h

/-- RESET comes next. -/
def toReset (s : State) : State := { s with sched := [.reset] }

/-- The host's read is pending, at the longest beginning of a frame but one byte: 64 bytes of payload behind a length of
five bytes. -/
def waiting : State :=
  { ex with
    rxState := .readingMore, rxCap := 16
    rxBuf := [0x54#8, 0xAB#8, 0x01#8, 0x02#8, 0xC0#8, 0x80#8, 0x80#8, 0x80#8, 0x00#8] ++ List.replicate 64 0#8 }

/-- The host's read is pending and lacks the last byte of a frame. -/
def lastByte : State :=
  { ex with rxState := .readingMore, rxCap := 64, rxBuf := [0x54#8, 0xAB#8, 0x01#8, 0x02#8, 0x00#8, 0x03#8] }

/-- The host's transmission has one byte left. -/
def sending : State := { ex with txState := .busy, txBuf := [0x54#8, 0xAB#8], txPos := 1 }

/-- The dispatch unit waits for a frame. -/
def serving : State := { ex with srvEn := true, rxState := .readingMore, rxOwner := .server, rxCap := 64 }

/-- The dispatch unit sends the last byte of its reply. -/
def replying : State :=
  { ex with
    srvEn := true, srvState := .replyAssembled, txState := .busy, txOwner := .server, txBuf := [0x54#8], txPos := 0
    rxOwner := .server, rxCap := 64 }

/-- A write and a read, addressed to the block. -/
def request : State := received true [0x01#8, 0x05#8, 0x11#8, 0x11#8, 0x05#8]

/-- Both FIFOs of channel 9 are full. -/
def queued : State := (ex.setRxq 9 (List.replicate 16 0x41#8)).setTxq 9 (List.replicate 16 0x42#8)

theorem inv_ex : ex.Inv :=
  ⟨by decide, by decide, by decide, by decide, by decide, by decide, by decide, by decide, by decide, by decide⟩

theorem inv_waiting : waiting.Inv :=
  ⟨by decide, by decide, by decide +kernel, by decide, by decide, by decide, by decide, by decide, by decide, by decide⟩

theorem inv_lastByte : lastByte.Inv :=
  ⟨by decide, by decide, by decide +kernel, by decide, by decide, by decide, by decide, by decide, by decide, by decide⟩

theorem inv_sending : sending.Inv :=
  ⟨by decide, by decide, by decide, by decide, by decide, by decide, by decide, by decide, by decide, by decide⟩

theorem inv_serving : serving.Inv :=
  ⟨by decide, by decide, by decide, by decide, by decide, by decide, by decide, by decide, by decide, by decide⟩

theorem inv_replying : replying.Inv :=
  ⟨by decide, by decide, by decide, by decide, by decide, by decide, by decide, by decide, by decide, by decide⟩

theorem inv_request : request.Inv :=
  ⟨by decide, by decide, by decide, by decide, by decide, by decide, by decide, by decide, by decide, by decide⟩

theorem inv_queued : queued.Inv :=
  ⟨by decide, by decide, by decide, by decide, by decide, by decide, by decide, by decide, by decide +kernel, by decide⟩

/-! #### Encodings -/

theorem witness_WireRoundTrip_frame :
    (Instr.frame 0x7F#7 true 0xFF#8 ⟨64#32, 5⟩ (List.replicate 64 0#8) 0xFFFF#16).wf exCfg ∧
      (Instr.frame 0x7F#7 true 0xFF#8 ⟨64#32, 5⟩ (List.replicate 64 0#8) 0xFFFF#16).language = .frame ∧
      (Instr.frame 0#7 false 0#8 ⟨0#32, 1⟩ [] 0#16).wf exCfg := by decide

theorem witness_WireRoundTrip_subframe :
    (Instr.writeI8N ⟨0#32, 5⟩ ⟨0xFFFFFFFF#32, 5⟩ []).wf exCfg ∧
      (Instr.writeI8N ⟨0#32, 5⟩ ⟨0xFFFFFFFF#32, 5⟩ []).language = .subframe := by decide

theorem witness_PortRoundTrip_command :
    (Instr.rqWrite 0#32 .f32 [List.replicate 255 0#8, []]).wf exCfg ∧
      (Instr.rqWrite 0#32 .f32 [List.replicate 255 0#8, []]).language = .command ∧ (Instr.txFrames []).wf exCfg := by
  decide +kernel

theorem witness_PortRoundTrip_event :
    (Instr.tRead 0x7F#7 1#32).wf exCfg ∧ (Instr.tWrite 0#7 [0#8]).wf exCfg ∧
      (Instr.tWrite 0#7 [0#8]).language = .event := by decide

theorem witness_VarintRoundTrip : (venc 0xFFFFFFFF#32)[4]? = some 0x0F#8 := by decide

/-- Both ends of each of the five ranges. -/
theorem witness_VarintLength :
    (venc 0#32).length = 1 ∧ (venc 0x7F#32).length = 1 ∧ (venc 0x80#32).length = 2 ∧ (venc 0x3FFF#32).length = 2 ∧
      (venc 0x4000#32).length = 3 ∧ (venc 0x1FFFFF#32).length = 3 ∧ (venc 0x200000#32).length = 4 ∧
      (venc 0x0FFFFFFF#32).length = 4 ∧ (venc 0x10000000#32).length = 5 ∧ (venc 0xFFFFFFFF#32).length = 5 := by decide

theorem witness_VarintSizes :
    VarU.wf ⟨0#32, 1⟩ ∧ VarU.wf ⟨0xFFFFFFFF#32, 5⟩ ∧
      vdec exCfg [0x80#8, 0x80#8, 0x80#8, 0x80#8, 0x00#8] = some ⟨0#32, 5⟩ := by decide

theorem witness_FrameRoundTrip :
    exCfg.wf ∧ (⟨1#7, false, 2#8, List.replicate 64 0#8⟩ : Frame).payload.length ≤ exCfg.maxPayload ∧
      decodeFrameString exCfg [0x54#8, 0xAB#8, 0x01#8, 0x02#8, 0x01#8, 0x41#8, 0xBE#8, 0xCD#8] =
        some ⟨1#7, false, 2#8, [0x41#8]⟩ ∧
      [0x54#8, 0xAB#8, 0x01#8, 0x02#8, 0x01#8, 0x41#8, 0xBE#8, 0xCD#8].drop 4 =
        venc 1#32 ++ [0x41#8, 0xBE#8, 0xCD#8] := by decide +kernel

theorem witness_FrameLength :
    exCfg.wf ∧ (⟨1#7, false, 2#8, []⟩ : Frame).payload.length ≤ exCfg.maxPayload ∧
      (⟨1#7, false, 2#8, List.replicate 64 0#8⟩ : Frame).payload.length = exCfg.maxPayload ∧
      frameLen ⟨1#7, false, 2#8, List.replicate 64 0#8⟩ = 71 := by decide

/-- A bit of the last covered byte, a bit of the CRC field, and the first and the last byte a flip is claimed for. -/
theorem witness_CrcDetectsFlips :
    exCfg.crcPoly.getLsbD 0 = true ∧ 1 < [0x54#8, 0xAB#8].length ∧ 7 < 8 ∧ fcs exCfg [0x54#8, 0xAB#8] = 0xDBF5#16 ∧
      15 < 16 ∧ exCfg.wf ∧
      4 + (vencNat (⟨1#7, false, 2#8, [0x41#8]⟩ : Frame).payload.length).length = 5 ∧
      (encodeFrame exCfg ⟨1#7, false, 2#8, [0x41#8]⟩).length = 8 := by decide +kernel

theorem witness_BuiltSubframesDecode :
    (∀ v ∈ [Value.i16 0x0301#16, .i16 0x0303#16, .i16 0x0305#16, .i16 0x8004#16], v.type = .i16) ∧
      [Value.i16 0x0301#16, .i16 0x0303#16, .i16 0x0305#16, .i16 0x8004#16].length < 2 ^ 32 ∧
      2 ^ 32 - 1 < 2 ^ 32 ∧ ([] : List Byte).length < 2 ^ 32 := by decide

theorem witness_SubframeErrors :
    Instr.nop.wf exCfg ∧ Instr.nop.language = .subframe ∧ 0 < (encode .nop).length ∧
      (Instr.writeI16_1 ⟨5#32, 1⟩ 0x0301#16).wf exCfg ∧ 3 < (encode (.writeI16_1 ⟨5#32, 1⟩ 0x0301#16)).length := by
  decide

/-! #### Steps -/

theorem witness_StepRunsFetched_command :
    (turn ex .host [0x21#8, 0x01#8]).parser = .none ∧ (turn ex .host [0x21#8, 0x01#8]).rxState ≠ .awaitFrame ∧
      (turn ex .host [0x21#8, 0x01#8]).sched = [.take .host] ∧
      findOffer .host (turn ex .host [0x21#8, 0x01#8]).offers = some [0x21#8, 0x01#8] ∧
      exact (decodeCommand [0x21#8, 0x01#8]) = .ok (.csrRead 0x01#8) := ⟨rfl, by decide, rfl, rfl, rfl⟩

theorem witness_StepRunsFetched_event :
    Port.transportRx ≠ .host ∧ Port.transportRx ≠ .dispatch ∧
      findOffer .transportRx (turn lastByte .transportRx [0x80#8, 0x28#8]).offers = some [0x80#8, 0x28#8] ∧
      exact (decodeEvent [0x80#8, 0x28#8]) = .ok (.rxByte 0x28#8) ∧
      portOf (.rxByte 0x28#8) = some .transportRx := ⟨by decide, by decide, rfl, rfl, rfl⟩

theorem witness_StepRunsFetched_dispatch :
    request.parser = .none ∧ request.rxState ≠ .awaitFrame ∧ request.sched = [.take .dispatch] := by decide

/-- The write of `request` is being executed. -/
def parsing : State := request.parsing

theorem witness_StepRunsFetched_subframe :
    parsing.parser = .dispatch ∧ parsing.pp < parsing.payload.length ∧ parsing.abort = false ∧
      parsing.tunnelSeen = false ∧
      decodeSub parsing.cfg (parsing.payload.drop parsing.pp) =
        .ok (.writeI8_1 ⟨5#32, 1⟩ 0x11#8, [0x11#8, 0x05#8]) := ⟨rfl, by decide, rfl, rfl, rfl⟩

/-- A reply is being parsed. -/
def replyParsing : State := { ex with parser := .reply, rpPayload := [0x30#8, 0x06#8, 0x02#8], rpPos := 0 }

theorem witness_StepRunsFetched_reply :
    replyParsing.parser = .reply ∧ replyParsing.rpPos < replyParsing.rpPayload.length ∧
      decodeSub replyParsing.cfg (replyParsing.rpPayload.drop replyParsing.rpPos) =
        .ok (.writeError ⟨6#32, 1⟩ ⟨2#32, 1⟩, []) := ⟨rfl, by decide, rfl⟩

/-- A scan is in progress, with a stray byte in front of a frame. -/
def scanning : State :=
  { ex with
    rxState := .awaitFrame, rxCap := 16
    rxBuf := [0x11#8, 0x54#8, 0xAB#8, 0x01#8, 0x02#8, 0x01#8, 0x41#8, 0xBE#8, 0xCD#8, 0x54#8] }

theorem witness_StepRunsFetched_frame :
    scanning.parser = .none ∧ scanning.rxState = .awaitFrame ∧
      decodeFrame scanning.cfg (scanning.rxBuf.dropWhile (fun x => x != 0x54#8)) =
        .ok (.frame 1#7 false 2#8 ⟨1#32, 1⟩ [0x41#8] 0xCDBE#16, [0x54#8]) := ⟨rfl, rfl, rfl⟩

theorem witness_TurnsWithoutInstruction :
    ex.settled ∧ ex.sched = [] ∧
      (turn ex .timer [0x84#8]).settled ∧ findOffer .timer ({ ex with sched := [.take .timer] } : State).offers = none :=
  ⟨by decide, rfl, by decide, rfl⟩

/-- An undefined opcode, a truncated command, and a command with a byte too many. -/
theorem witness_TurnsWithoutInstruction_command :
    (∀ i, exact (decodeCommand [0x3F#8]) ≠ .ok i) ∧ (∀ i, exact (decodeCommand [0x21#8]) ≠ .ok i) ∧
      (∀ i, exact (decodeCommand [0x01#8, 0x00#8]) ≠ .ok i) :=
  ⟨(fun _ h => nomatch h), (fun _ h => nomatch h), (fun _ h => nomatch h)⟩

/-- No event, and an event of another port. -/
theorem witness_TurnsWithoutInstruction_event :
    (∀ i, exact (decodeEvent [0x8F#8]) = .ok i → portOf i ≠ some .transportRx) ∧
      (∀ i, exact (decodeEvent [0x82#8]) = .ok i → portOf i ≠ some .transportRx) :=
  ⟨(fun _ h => nomatch h), (fun i h => by cases (show i = .txTake from (Except.ok.inj h).symm); decide)⟩

theorem witness_ResetValues :
    exCfg.crcRefout = false ∧ (toReset replying).settled ∧ (toReset replying).sched = .reset :: [] := by decide

theorem witness_ResetInv : exCfg.wf := by decide

theorem witness_InvStep_receive :
    (turn lastByte .transportRx [0x80#8, 0x28#8]).Inv ∧ ∃ t, step (turn lastByte .transportRx [0x80#8, 0x28#8]) = .next t :=
  ⟨inv_turn inv_lastByte _ _, goes_on (by decide +kernel)⟩

theorem witness_InvStep_dispatch : request.Inv ∧ ∃ t, step request = .next t := ⟨inv_request, goes_on (by decide +kernel)⟩

theorem witness_InvStep_reply :
    (turn replying .transportTx [0x82#8]).Inv ∧ ∃ t, step (turn replying .transportTx [0x82#8]) = .next t :=
  ⟨inv_turn inv_replying _ _, goes_on (by decide +kernel)⟩

theorem witness_NoModellingFault : (turn waiting .transportRx [0x80#8, 0x00#8]).Inv ∧ request.Inv ∧ queued.Inv :=
  ⟨inv_turn inv_waiting _ _, inv_request, inv_queued⟩

/-- One byte more, and the buffer is at its bound with the read still pending. -/
theorem witness_ReceiveBufferBound :
    waiting.cfg.wf ∧ (turn waiting .transportRx [0x80#8, 0x00#8]).settled ∧
      waiting.rxBuf.length ≤ waiting.cfg.maxPayload + 10 ∧
      ∃ t, step (turn waiting .transportRx [0x80#8, 0x00#8]) = .next t ∧ t.rxState = .readingMore ∧
        t.rxBuf.length = t.cfg.maxPayload + 10 :=
  ⟨by decide, by decide, by decide, leads_prop (by decide +kernel)⟩

theorem witness_StoreCallsOnlyInDispatch :
    request.settled ∧ ∃ t, step request = .next t ∧ t.storeLog ≠ request.storeLog :=
  ⟨by decide, leads_prop (by decide +kernel)⟩

/-- A wrong channel: a bit of `FAULT` is set. Then RESET. -/
theorem witness_StickyState :
    (turn serving .host [0x21#8, 0x04#8]).Inv ∧ (turn serving .host [0x21#8, 0x04#8]).sched.head? ≠ some .reset ∧
      (turn serving .host [0x21#8, 0x04#8]).srvEn = true ∧
      ∃ t, step (turn serving .host [0x21#8, 0x04#8]) = .next t ∧ t.fault = 0x20#32 :=
  ⟨inv_turn inv_serving _ _, by decide, rfl, leads_prop (by decide +kernel)⟩

theorem witness_StickyState_reset :
    (toReset serving).Inv ∧ (toReset serving).sched.head? = some .reset ∧ ∃ t, step (toReset serving) = .next t :=
  ⟨inv_serving, rfl, goes_on (by decide +kernel)⟩

theorem witness_HostUnitsPrivate_event :
    request.settled ∧ request.sched.head? ≠ some .reset ∧ request.sched.head? ≠ some (.take .host) ∧
      ∃ t, step request = .next t := ⟨by decide, by decide, by decide, goes_on (by decide +kernel)⟩

theorem witness_HostUnitsPrivate_command :
    (turn ex .host [0x02#8, 0x41#8]).settled ∧ (turn ex .host [0x02#8, 0x41#8]).sched.head? = some (.take .host) ∧
      ∃ t, step (turn ex .host [0x02#8, 0x41#8]) = .next t ∧ t.crcReg = 0xB915#16 :=
  ⟨by decide, rfl, leads_prop (by decide +kernel)⟩

theorem witness_NotEnabledWaits :
    ex.rxState ≠ .readingMore ∧ serving.rxOwner = .server ∧ ex.txState = .idle ∧ ex.srvState ≠ .frameReceived ∧
      (9#7 ∈ ex.cfg.tunnelIds ∧ ex.rxq (9#7).toNat = []) ∧
      (9#7 ∈ queued.cfg.tunnelIds ∧ queued.cfg.tunnelTxCap ≤ (queued.txq (9#7).toNat).length) := by decide +kernel

/-- Each command that faults, at the values where its checks begin to fail; a bit that is set already. -/
theorem witness_FaultsArePrecise :
    raisedBy (.rxArm 65#32) ex = some .badCmd ∧ raisedBy (.rxArm 64#32) waiting = some .doubleRead ∧
      raisedBy (.rxArm 65#32) serving = some .serverOwns ∧ raisedBy .rxCancel serving = some .serverOwns ∧
      raisedBy (.txFrames []) sending = some .doubleWrite ∧
      raisedBy (.txFrames [⟨1#7, false, 2#8, List.replicate 65 0#8⟩]) ex = some .txOversize ∧
      raisedBy .srvStart serving = some .srvRestart ∧ raisedBy .srvStart waiting = some .doubleRead ∧
      raisedBy .srvStart sending = some .doubleWrite ∧ raisedBy (.csrRead 0x04#8) ex = some .badCsr ∧
      raisedBy (.csrRead 0x17#8) ex = some .badCsr ∧ raisedBy (.csrWrite 0x01#8 0#32) ex = some .badCsr ∧
      raisedBy (.rqWrite 5#32 .i16 [[0x12#8]]) ex = some .badCmd ∧
      raisedBy (.rqRead 9#32 .i32 1#32) { ex with rqBuf := List.replicate 63 0#8 } = some .rqOverflow ∧
      raisedBy (.rpParse (List.replicate 65 0x50#8)) ex = some .badCmd ∧
      raisedBy (.tRead 5#7 1#32) ex = some .badTunnel ∧
      raisedBy (.tWrite 5#7 [0#8]) { ex with fault := 0x80#32 } = some .badTunnel := by decide +kernel

/-- One that passes its checks; and one that changes `FAULT`. -/
theorem witness_FaultsArePrecise_next :
    ex.Inv ∧ raisedBy (.rxArm 64#32) ex = none ∧ (∃ t, exec (.rxArm 64#32) ex = .next t) ∧
      (∃ t, exec (.csrRead 0x04#8) ex = .next t ∧ t.fault ≠ ex.fault) :=
  ⟨inv_ex, by decide, goes_on (by decide +kernel), leads_prop (by decide +kernel)⟩

theorem witness_WireCannotFault :
    (turn ex .host [0x3F#8]).Inv ∧ (turn ex .host [0x3F#8]).sched.head? ≠ some .reset ∧
      (∃ t, step (turn ex .host [0x3F#8]) = .next t ∧ t.fault ≠ (turn ex .host [0x3F#8]).fault) ∧
      (∃ t, step (turn ex (.tunnelRead 5#7) [0x88#8, 0x05#8, 0x01#8, 0#8, 0#8, 0#8]) = .next t ∧ t.fault = 0x80#32) :=
  ⟨inv_turn inv_ex _ _, by decide, leads_prop (by decide +kernel), leads_prop (by decide +kernel)⟩

theorem witness_ServerOwnsPort :
    (turn serving .transportRx [0x80#8, 0x54#8]).Inv ∧ serving.srvEn = true ∧
      ∃ t, step (turn serving .transportRx [0x80#8, 0x54#8]) = .next t :=
  ⟨inv_turn inv_serving _ _, rfl, goes_on (by decide +kernel)⟩

/-- A read goes on, and ends. -/
theorem witness_OneCompletionPerOperation_read :
    (turn waiting .transportRx [0x80#8, 0x00#8]).Inv ∧ waiting.srvEn = false ∧ waiting.rxState = .readingMore ∧
      (∃ t, step (turn waiting .transportRx [0x80#8, 0x00#8]) = .next t ∧ t.rxState = .readingMore) ∧
      (turn lastByte .transportRx [0x80#8, 0x28#8]).Inv ∧
      (∃ t, step (turn lastByte .transportRx [0x80#8, 0x28#8]) = .next t ∧ t.completed .rx = true) :=
  ⟨inv_turn inv_waiting _ _, rfl, rfl, leads_prop (by decide +kernel), inv_turn inv_lastByte _ _,
    leads_prop (by decide +kernel)⟩

/-- A read starts and goes on; a read starts and ends at once, with a frame in the buffer. -/
theorem witness_OneCompletionPerOperation_arm :
    (turn ex .host [0x11#8, 0x10#8, 0#8, 0#8, 0#8]).Inv ∧ ex.rxState = .idle ∧
      (∃ t, step (turn ex .host [0x11#8, 0x10#8, 0#8, 0#8, 0#8]) = .next t ∧ t.rxState = .readingMore) ∧
      (turn { lastByte with rxState := .idle, rxBuf := lastByte.rxBuf ++ [0x28#8] } .host
        [0x11#8, 0x10#8, 0#8, 0#8, 0#8]).Inv ∧
      (∃ t, step (turn { lastByte with rxState := .idle, rxBuf := lastByte.rxBuf ++ [0x28#8] } .host
        [0x11#8, 0x10#8, 0#8, 0#8, 0#8]) = .next t ∧ t.completed .rx = true) :=
  ⟨inv_turn inv_ex _ _, rfl, leads_prop (by decide +kernel),
    ⟨by decide, by decide, by decide +kernel, by decide, by decide, by decide, by decide, by decide, by decide, by decide⟩,
    leads_prop (by decide +kernel)⟩

/-- A transmission starts, and ends; an empty one completes at once. -/
theorem witness_OneCompletionPerOperation_transmission :
    (turn sending .transportTx [0x82#8]).Inv ∧ sending.srvEn = false ∧ sending.txState = .busy ∧
      (∃ t, step (turn sending .transportTx [0x82#8]) = .next t ∧ t.completed .tx = true) ∧
      (turn ex .host [0x10#8, 0x01#8, 0#8, 0#8, 0#8, 0x01#8, 0x02#8, 0#8, 0#8, 0#8, 0#8]).Inv ∧
      (∃ t, step (turn ex .host [0x10#8, 0x01#8, 0#8, 0#8, 0#8, 0x01#8, 0x02#8, 0#8, 0#8, 0#8, 0#8]) = .next t ∧
        t.txState = .busy) ∧
      (∃ t, step (turn ex .host [0x10#8, 0#8, 0#8, 0#8, 0#8]) = .next t ∧ t.completed .tx = true) :=
  ⟨inv_turn inv_sending _ _, rfl, rfl, leads_prop (by decide +kernel), inv_turn inv_ex _ _,
    leads_prop (by decide +kernel), leads_prop (by decide +kernel)⟩

/-! #### CRC unit, varint unit, CSRs -/

/-- The fifth byte ends the number, or clamps it; after `DONE` a new number starts. -/
theorem witness_VarintCommands :
    returned (.vdecByte 0x0F#8) { ex with vdSt := .partialValue, vdCnt := 4, vdAcc := 0x0FFFFFFF#32 } =
        some (.varint .done 0xFFFFFFFF#32 5) ∧
      returned (.vdecByte 0x8F#8) { ex with vdSt := .partialValue, vdCnt := 4, vdAcc := 0x0FFFFFFF#32 } =
        some (.varint .clamped 0xFFFFFFFF#32 5) ∧
      returned (.vdecByte 0x05#8) { ex with vdSt := .done, vdCnt := 5, vdAcc := 7#32 } = some (.varint .done 5#32 1) := by
  decide +kernel

/-- Before the last byte, at the last byte, and a string that ends too early. -/
theorem witness_DecodersAgree :
    (ex.vdSt = .empty ∧ ex.vdCnt = 0 ∧ ex.vdAcc = 0#32) ∧ 1 ≤ 2 ∧ 2 ≤ [0xAC#8, 0x02#8, 0x00#8].length ∧
      vdec ex.cfg [0xAC#8, 0x02#8, 0x00#8] = some ⟨300#32, 2⟩ ∧
      vdec ex.cfg ([0xAC#8, 0x02#8, 0x00#8].take 1) = none ∧
      vdec ex.cfg [0xFF#8, 0xFF#8, 0xFF#8, 0xFF#8, 0xFF#8] = some ⟨0xFFFFFFFF#32, 5⟩ := by decide

theorem witness_StatusFields :
    replying.srvState ≠ .dispatching ∧ replying.rxState ≠ .awaitFrame ∧ replying.vdCnt ≤ 5 ∧
      { ex with vdSt := .clamped, vdCnt := 5 }.vdCnt ≤ 5 ∧ ex.srvState ≠ .dispatching := by decide

theorem witness_CsrAccess :
    (ex.srvState ≠ .dispatching ∧ ex.rxState ≠ .awaitFrame ∧ ex.vdCnt ≤ 5) ∧ ex.statsOk ∧ ex.cfg.statsWidth ≤ 32 ∧
      (0x04 ≤ (0x04#8).toNat ∧ (0x0F#8).toNat ≤ 0x0F ∧ 0x17 ≤ (0x17#8).toNat ∧ 0x17 ≤ (0xFF#8).toNat) ∧
      0x01#8 ≠ 0x00#8 := by decide

/-! #### Request builder and reply parser -/

/-- The last request that fits, the first that does not, and a pattern of another width. -/
theorem witness_RequestBuilder :
    (∀ v ∈ [[0x01#8, 0x03#8]], v.length = VType.i16.width) ∧
      { ex with rqBuf := List.replicate 60 0#8 }.rqBuf.length +
        (subRw 0 .i16 5#32 ([[0x01#8, 0x03#8]].map (Value.read .i16))).length = ex.cfg.rqCap ∧
      ex.cfg.rqCap < { ex with rqBuf := List.replicate 61 0#8 }.rqBuf.length +
        (subRw 0 .i16 5#32 ([[0x01#8, 0x03#8]].map (Value.read .i16))).length ∧
      (∃ v ∈ [[0x12#8]], v.length ≠ VType.i16.width) ∧
      { ex with rqBuf := List.replicate 62 0#8 }.rqBuf.length + (subRead .i32 9#32 (1#32).toNat).length = ex.cfg.rqCap ∧
      ex.cfg.rqCap < { ex with rqBuf := List.replicate 63 0#8 }.rqBuf.length + (subRead .i32 9#32 (1#32).toNat).length := by
  decide

/-- Two subframes in front of a nop; a payload of the largest size and one byte more. -/
theorem witness_ReplyParse :
    [0x21#8, 0x05#8, 0x01#8, 0x31#8, 0x05#8, 0x07#8, 0x50#8] =
        [Instr.replyI8_1 ⟨5#32, 1⟩ 0x01#8, .readError ⟨5#32, 1⟩ ⟨7#32, 1⟩].flatMap encode ++ [0x50#8] ∧
      (∀ i ∈ [Instr.replyI8_1 ⟨5#32, 1⟩ 0x01#8, .readError ⟨5#32, 1⟩ ⟨7#32, 1⟩], i.wf ex.cfg) ∧
      [Instr.replyI8_1 ⟨5#32, 1⟩ 0x01#8, .readError ⟨5#32, 1⟩ ⟨7#32, 1⟩].map recordsOf =
        [[(5#32, .val (.i8 0x01#8))], [(5#32, .err 7#32)]].map some ∧
      (∀ (i : Instr) (r : List Byte), decodeSub ex.cfg [0x50#8] = .ok (i, r) → recordsOf i = none) ∧
      (List.replicate 64 0x50#8).length ≤ ex.cfg.maxPayload ∧ ex.cfg.maxPayload < (List.replicate 65 0x50#8).length := by
  refine ⟨rfl, ?_, rfl, ?_, by decide, by decide⟩
  · intro i hi
    rcases List.mem_pair.1 hi with rfl | rfl <;> decide
  · intro i r h
    cases (Prod.mk.inj (Except.ok.inj (h.symm.trans (rfl : decodeSub ex.cfg [0x50#8] = .ok (.nop, []))))).1
    rfl

theorem witness_ReplyMapLastWins : rpSorted [(5#32, .err 7#32), (6#32, .val (.i8 1#8))] := by decide

/-! #### Transmit -/

theorem witness_TransmitStart :
    serving.srvEn = true ∧ (sending.srvEn = false ∧ sending.txState = .busy) ∧
      (ex.srvEn = false ∧ ex.txState = .idle ∧
        (∃ f ∈ [(⟨1#7, false, 2#8, List.replicate 65 0#8⟩ : Frame)], ex.cfg.maxPayload < f.payload.length)) ∧
      ex.cfg.txBufSize < ([(⟨1#7, false, 2#8, List.replicate 30 0#8⟩ : Frame),
        ⟨1#7, false, 2#8, List.replicate 32 0#8⟩].map frameLen).sum ∧
      ((∀ f ∈ [(⟨1#7, false, 2#8, List.replicate 64 0#8⟩ : Frame)], f.payload.length ≤ ex.cfg.maxPayload) ∧
        ([(⟨1#7, false, 2#8, List.replicate 64 0#8⟩ : Frame)].map frameLen).sum ≤ ex.cfg.txBufSize ∧
        [(⟨1#7, false, 2#8, List.replicate 64 0#8⟩ : Frame)] ≠ []) := by decide

theorem witness_TransmitTake :
    ({ sending with txPos := 0 }.txState = .busy ∧ { sending with txPos := 0 }.txBuf[0]? = some 0x54#8 ∧
        0 + 1 < sending.txBuf.length) ∧
      (sending.txBuf[sending.txPos]? = some 0xAB#8 ∧ sending.txPos + 1 = sending.txBuf.length ∧ sending.txOwner = .host) ∧
      (replying.txState = .busy ∧ replying.txBuf[replying.txPos]? = some 0x54#8 ∧
        replying.txPos + 1 = replying.txBuf.length ∧ replying.txOwner = .server ∧ replying.rxState = .idle) := by decide

theorem witness_TransmitDrains :
    { sending with txPos := 0 }.txState = .busy ∧ { sending with txPos := 0 }.txOwner = .host ∧
      { sending with txPos := 0 }.txPos < { sending with txPos := 0 }.txBuf.length := by decide

theorem witness_TransmitError :
    (sending.txState = .busy ∧ sending.txOwner = .host) ∧
      (replying.txState = .busy ∧ replying.txOwner = .server ∧ replying.rxState = .idle) := by decide

/-! #### Receive -/

theorem witness_ReceiveArm :
    serving.srvEn = true ∧ (ex.srvEn = false ∧ ex.cfg.maxPayload < (65#32).toNat) ∧
      (waiting.srvEn = false ∧ (64#32).toNat ≤ waiting.cfg.maxPayload ∧ waiting.rxState ≠ .idle) ∧
      (ex.srvEn = false ∧ (64#32).toNat ≤ ex.cfg.maxPayload ∧ ex.rxState = .idle) := by decide

theorem witness_ReceiveByte :
    (waiting.rxState = .readingMore ∧ waiting.rxBuf.length < waiting.cfg.rxBufSize ∧ waiting.rxOwner = .host) ∧
      (serving.rxState = .readingMore ∧ serving.rxBuf.length < serving.cfg.rxBufSize ∧
        serving.cfg.maxPayload ≤ serving.rxCap) := by decide

theorem witness_ReceiveEnds :
    (ex.srvEn = false ∧ ex.rxState = .idle) ∧
      (waiting.rxState = .readingMore ∧ waiting.rxOwner = .host ∧ waiting.srvEn = false) ∧
      (serving.rxState = .readingMore ∧ serving.rxOwner = .server) := by decide

/-- A match of the host's, of the dispatch unit's, and a mismatch; and a frame outside a scan. -/
theorem witness_FrameCandidate :
    VarU.counts ⟨1#32, 1⟩ [0x41#8].length ∧ ex.rxState ≠ .awaitFrame ∧
      ({ scanning with rxBuf := scanning.rxBuf.tail }.rxState = .awaitFrame ∧
        { scanning with rxBuf := scanning.rxBuf.tail }.rxBuf =
          encode (.frame 1#7 false 2#8 ⟨1#32, 1⟩ [0x41#8] 0xCDBE#16) ++ [0x54#8]) ∧
      fcs scanning.cfg ([0x54#8, 0xAB#8, srcByte 1#7 false, 2#8] ++ (⟨1#32, 1⟩ : VarU).bytes ++ [0x41#8]) = 0xCDBE#16 ∧
      fcs scanning.cfg ([0x54#8, 0xAB#8, srcByte 1#7 false, 2#8] ++ (⟨1#32, 1⟩ : VarU).bytes ++ [0x41#8]) ≠ 0xCDBF#16 ∧
      scanning.rxOwner = .host ∧ { scanning with rxOwner := .server }.rxOwner = .server ∧
      [0x41#8].length ≤ scanning.rxCap := by decide +kernel

theorem witness_ScanRefines :
    (scanning.rxState = .awaitFrame ∧ scanning.rxOwner = .host) ∧
      ({ serving with rxState := .awaitFrame }.rxState = .awaitFrame ∧ serving.cfg.maxPayload ≤ serving.rxCap) := by decide

theorem witness_ChunkingIndependence :
    lastByte.cfg.wf ∧ lastByte.rxOk ∧ lastByte.rxState = .readingMore ∧ lastByte.rxOwner = .host ∧
      lastByte.result = .none ∧ lastByte.completion = none ∧ serving.rxOk ∧ serving.rxState = .readingMore ∧
      serving.cfg.maxPayload ≤ serving.rxCap := by decide +kernel

/-! #### The dispatch unit -/

theorem witness_ServerStart :
    serving.srvEn = true ∧ (waiting.srvEn = false ∧ waiting.rxState ≠ .idle) ∧
      (sending.srvEn = false ∧ sending.rxState = .idle ∧ sending.txState = .busy) ∧
      (ex.srvEn = false ∧ ex.rxState = .idle ∧ ex.txState = .idle) := by decide

theorem witness_DispatchWrongId :
    { request with rxfDst := 0x02#8 }.srvState = .frameReceived ∧ request.rxState = .idle ∧
      0x02#8 ≠ request.nodeId &&& 0x7F#8 ∧ 0x02#8 ≠ 0x7F#8 := by decide

/-- To the node, and to everyone without the reply flag. -/
theorem witness_DispatchCompletes :
    request.Inv ∧ request.srvState = .frameReceived ∧ request.rxfDst = request.nodeId &&& 0x7F#8 ∧
      { request with rxfDst := 0x7F#8, rxfRr := false }.Inv ∧ request.rxfRr = true :=
  ⟨inv_request, rfl, rfl, inv_request, rfl⟩

theorem witness_DispatchInOrder :
    request.Inv ∧ request.srvState = .frameReceived ∧ request.rxfDst = request.nodeId &&& 0x7F#8 ∧
      request.rxfPayload = [Instr.writeI8_1 ⟨5#32, 1⟩ 0x11#8, .readI8_1 ⟨5#32, 1⟩].flatMap encode ∧
      (∀ i ∈ [Instr.writeI8_1 ⟨5#32, 1⟩ 0x11#8, .readI8_1 ⟨5#32, 1⟩], i.wf request.cfg ∧ i.language = .subframe) := by
  refine ⟨inv_request, rfl, rfl, rfl, ?_⟩
  intro i hi
  rcases List.mem_pair.1 hi with rfl | rfl <;> decide

/-- A rejected register among the written, with an error code of the example store. -/
theorem witness_WriteSubframes :
    Instr.writeView (.writeI8_2 ⟨31#32, 1⟩ 0x11#8 0x22#8) = some (31#32, [.i8 0x11#8, .i8 0x22#8]) ∧
      parsing.parser = .dispatch ∧ parsing.abort = false ∧
      errorsOf parsing.cfg.store (madeWrites parsing.storeLog) (writesOf 31#32 [.i8 0x11#8, .i8 0x22#8]) = [(32#32, 7#32)] := by
  decide +kernel

/-- No registers; four of which one fails; and sixteen whose reply does not fit. -/
theorem witness_ReadSubframes :
    Instr.readView (.readI8N ⟨0#32, 1⟩ ⟨9#32, 1⟩) = some (.i8, 0, 9#32) ∧
      Instr.readView (.readI8N ⟨4#32, 1⟩ ⟨30#32, 1⟩) = some (.i8, 4, 30#32) ∧
      parsing.parser = .dispatch ∧ parsing.abort = false ∧
      readItems .i8 none (answersOf parsing .i8 4 30#32) =
        [[0x22#8, 0x1E#8, 0x1E#8, 0x1F#8], [0x31#8, 0x20#8, 0x03#8], [0x21#8, 0x21#8, 0x21#8]] ∧
      (appendItems (readItems .i32 none (answersOf parsing .i32 16 0#32)) parsing).abort = true := by decide +kernel

theorem witness_AppendReply :
    { parsing with replyBuf := List.replicate 61 0#8 }.abort = false ∧
      { parsing with replyBuf := List.replicate 61 0#8 }.replyBuf.length + [0x21#8, 0x09#8, 0x09#8].length =
        parsing.cfg.replyCap ∧
      parsing.cfg.replyCap <
        { parsing with replyBuf := List.replicate 62 0#8 }.replyBuf.length + [0x21#8, 0x09#8, 0x09#8].length := by decide

theorem witness_ReplySubframesUnknown :
    parsing.parser = .dispatch ∧ recordsOf (.replyI8_1 ⟨5#32, 1⟩ 0x11#8) ≠ none ∧
      (∃ (ch len : VarU) (data : List Byte), Instr.tunnelS2c ⟨9#32, 1⟩ ⟨0#32, 1⟩ [] = .tunnelS2c ch len data) :=
  ⟨rfl, by decide, _, _, _, rfl⟩

theorem witness_SubframesInReplyParser :
    Instr.language (.replyI8_1 ⟨5#32, 1⟩ 0x11#8) = .subframe ∧ replyParsing.parser = .reply ∧
      recordsOf (.replyI8_1 ⟨5#32, 1⟩ 0x11#8) = some [(5#32, .val (.i8 0x11#8))] ∧
      Instr.language .nop = .subframe ∧ recordsOf .nop = none ∧ ex.parser = .none ∧
      { ex with parser := .replyEnded }.parser = .replyEnded := by decide

/-- The parse of `request` with another payload. -/
def cutAt (payload : List Byte) : State := { parsing with rxfPayload := payload, rxfLen := BitVec.ofNat 32 payload.length }

/-- An unassigned code; short subframes of the reply parser's, of the tunnels, of a read and of a write whose register is
missing; and in the reply parser a code of another parser and a short reply. -/
theorem witness_UndecodedSubframes :
    (cutAt [0x33#8]).parser = .dispatch ∧ (cutAt [0x33#8]).pp < (cutAt [0x33#8]).payload.length ∧
      (cutAt [0x33#8]).abort = false ∧ (cutAt [0x33#8]).tunnelSeen = false ∧
      (cutAt [0x33#8]).payload.drop (cutAt [0x33#8]).pp = 0x33#8 :: [] ∧
      decodeSub exCfg [0x33#8] = .error .unknownCode ∧ decodeSub exCfg [0x20#8] = .error .short ∧
      decodeSub exCfg [0x31#8] = .error .short ∧ decodeSub exCfg [0x41#8] = .error .short ∧
      decodeSub exCfg [0x42#8] = .error .short ∧ decodeSub exCfg [0x10#8] = .error .short ∧
      decodeSub exCfg [0x0F#8] = .error .short ∧ writeHeader exCfg 0x0F#8 [] = none ∧
      replyParsing.parser = .reply ∧ replyParsing.rpPos < replyParsing.rpPayload.length ∧
      decodeSub exCfg [0x30#8, 0x06#8] = .error .short :=
  ⟨rfl, by decide, rfl, rfl, rfl, rfl, rfl, rfl, rfl, rfl, rfl, rfl, rfl, rfl, by decide, rfl⟩

/-- Two of three 16-bit values, and a byte of the third. -/
theorem witness_UndecodedSubframes_partial :
    { exCfg with partialWrite := true }.partialWrite = true ∧ (0x07#8).toNat ≤ 0x0F ∧ VarU.wf ⟨5#32, 1⟩ ∧
      VType.i16.index = (0x07#8).toNat / 4 ∧ (∀ v ∈ [Value.i16 0x0301#16, .i16 0x0303#16], v.type = .i16) ∧
      [0x05#8].length < VType.i16.width ∧
      decodeSub exCfg (0x07#8 :: ((⟨5#32, 1⟩ : VarU).bytes ++ [Value.i16 0x0301#16, .i16 0x0303#16].flatMap Value.bytes ++
        [0x05#8])) = .error .short := ⟨rfl, by decide, by decide, rfl, by decide, by decide, rfl⟩

theorem witness_TunnelSubframes :
    parsing.parser = .dispatch ∧ [] = parsing.rxq (⟨9#32, 1⟩ : VarU).value.toNat ∧
      17 - 1 = min (List.replicate 17 0#8).length (parsing.cfg.tunnelRxCap - ([] : List Byte).length) ∧
      (∃ id ∈ parsing.cfg.tunnelIds, id.toNat = (⟨9#32, 1⟩ : VarU).value.toNat) ∧
      (∀ id ∈ parsing.cfg.tunnelIds, id.toNat ≠ (⟨137#32, 2⟩ : VarU).value.toNat) := by decide

/-- A broadcast; no room at all; and one byte fits of five, because the reply has room for four. -/
theorem witness_TunnelReplyLargest :
    ({ parsing with rxfDst := 0x7F#8, rxfRr := false }.rxfDst = 0x7F#8 ∧
        { parsing with rxfDst := 0x7F#8, rxfRr := false }.rxfRr = false) ∧
      ¬ (parsing.rxfDst = 0x7F#8 ∧ parsing.rxfRr = false) ∧
      (∀ m, m ≤ 5 → 2 < 1 + (venc 9#32).length + (vencNat m).length + m) ∧
      (1 ≤ 5 ∧ 1 + (venc 9#32).length + (vencNat 1).length + 1 ≤ 4 ∧
        ∀ k, 1 < k → k ≤ 5 → 4 < 1 + (venc 9#32).length + (vencNat k).length + k) := by
  refine ⟨by decide, by decide, ?_, by decide, by decide, ?_⟩
  · intro m hm
    interval_cases m <;> decide
  · intro k h hk
    interval_cases k <;> decide

theorem witness_TunnelPorts :
    5#7 ∉ ex.cfg.tunnelIds ∧ (9#7 ∈ queued.cfg.tunnelIds ∧ queued.rxq (9#7).toNat ≠ []) ∧
      (9#7 ∈ ex.cfg.tunnelIds ∧ (ex.txq (9#7).toNat).length < ex.cfg.tunnelTxCap ∧
        16 = min (List.replicate 17 0#8).length (ex.cfg.tunnelTxCap - (ex.txq (9#7).toNat).length)) := by decide +kernel

/-- These states are none that a run reaches. -/
theorem witness_ModellingErrors :
    { ex with srvState := .dispatching }.srvState = .dispatching ∧ scanning.rxState = .awaitFrame ∧
      5 < { ex with vdCnt := 6 }.vdCnt ∧
      ({ waiting with rxBuf := List.replicate 75 0x54#8 }.rxState = .readingMore ∧
        waiting.cfg.rxBufSize ≤ (List.replicate 75 0x54#8).length) ∧
      ({ serving with srvEn := false }.rxState = .readingMore ∧ { serving with srvEn := false }.rxOwner = .server) ∧
      ({ sending with txPos := 2 }.txState = .busy ∧ sending.txBuf.length ≤ { sending with txPos := 2 }.txPos) ∧
      ({ request with rxfPayload := [] }.srvState = .frameReceived ∧
        ({ request with rxfPayload := [] }.rxfPayload).length < request.rxfLen.toNat) := by decide

/-- A frame for the dispatch unit longer than its capacity, which no arm of its own sets. -/
theorem witness_ModellingErrors_frame :
    { scanning with rxOwner := .server, rxCap := 0, rxBuf := scanning.rxBuf.tail }.rxState = .awaitFrame ∧
      0 < [0x41#8].length ∧ VarU.counts ⟨1#32, 1⟩ [0x41#8].length ∧
      0xCDBE#16 = fcs scanning.cfg ([0x54#8, 0xAB#8, srcByte 1#7 false, 2#8] ++ (⟨1#32, 1⟩ : VarU).bytes ++ [0x41#8]) ∧
      scanning.rxBuf.tail = encode (.frame 1#7 false 2#8 ⟨1#32, 1⟩ [0x41#8] 0xCDBE#16) ++ [0x54#8] := by decide +kernel

/-- The transmitter busy; and a transmit buffer of eight bytes for a reply frame of ten. -/
theorem witness_ModellingErrors_reply :
    (request.rxfDst = request.nodeId &&& 0x7F#8 ∧
        request.rxfPayload = [Instr.writeI8_1 ⟨5#32, 1⟩ 0x11#8, .readI8_1 ⟨5#32, 1⟩].flatMap encode ∧
        request.rxfPayload.length = request.rxfLen.toNat ∧ ¬(request.rxfDst = 0x7F#8 ∧ request.rxfRr = false)) ∧
      (∃ u, dispatchAll [.writeI8_1 ⟨5#32, 1⟩ 0x11#8, .readI8_1 ⟨5#32, 1⟩]
        ({ request with txState := .busy } : State).parsing = .next u ∧ u.need = true) ∧
      (∃ u, dispatchAll [.writeI8_1 ⟨5#32, 1⟩ 0x11#8, .readI8_1 ⟨5#32, 1⟩]
          ({ request with cfg := { exCfg with txBufSize := 8 } } : State).parsing = .next u ∧
        u.need = true ∧ 8 < frameLen ⟨request.nodeId.setWidth 7, false, request.rxfSrc.setWidth 8, u.replyBuf⟩) :=
  ⟨by decide +kernel, leads_prop (by decide +kernel), leads_prop (by decide +kernel)⟩

theorem witness_TunnelQueues : (∃ t ∈ ex.tunnels, t.id.toNat = 9) ∧ 5 ≠ 9 := by decide

end Sys2Proof.Tests
end

section
/-! What a step fetches, and that it runs it (00_scope R3, R4): one equation per position of `fetch`, one rule per kind of
turn and per loop pass, and obligation O12 assembled from them. -/

namespace Sys2Proof.Machine

/-! ### Steps -/

/-- A step is the meaning of the fetched instruction. -/
theorem step_of_fetch_run {s t : State} {i : Instr} (h : fetch s = .run i t) : step s = exec i t := by
  rw [step, h]

/-! ### Positions of `fetch` -/

/-- With no loop in progress the schedule's head decides whose turn is fetched (log 6). -/
theorem fetch_take {s : State} {r : List Move} {p : Port} (hparser : s.parser = .none)
    (hrx : s.rxState ≠ .awaitFrame) (hsched : s.sched = .take p :: r) : fetch s = turnFetch p s := by
  simp only [fetch, hparser, hsched, if_neg hrx]

/-- A scan in progress goes on by one pass (log 13). -/
theorem fetch_scan {s : State} (hparser : s.parser = .none) (hrx : s.rxState = .awaitFrame) :
    fetch s = scanFetch s := by
  simp only [fetch, hparser, if_pos hrx]

/-- A dispatch parse that is not done goes on by one pass (45_dispatch R287, log 13). -/
theorem fetch_dispatch {s : State} (hparser : s.parser = .dispatch) (hdone : s.dispatchDone = false) :
    fetch s = dispatchFetch s := by
  simp [fetch, hparser, hdone]

/-- A reply parse that is not done goes on by one pass (44_subframe_codec R260, log 13). -/
theorem fetch_reply {s : State} (hparser : s.parser = .reply) (hdone : s.replyDone = false) :
    fetch s = replyFetch s := by
  simp [fetch, hparser, hdone]

/-- The dispatch parse goes on while bytes are left at `PP` and it was neither aborted nor ended by a tunnel subframe
(45_dispatch R287, R294). -/
theorem dispatchDone_eq_false_iff {s : State} :
    s.dispatchDone = false ↔ s.pp < s.payload.length ∧ s.abort = false ∧ s.tunnelSeen = false := by
  simp [State.dispatchDone, and_assoc]

/-- The reply parse goes on while it was not stopped and bytes are left at its index (44_subframe_codec R260). -/
theorem replyDone_eq_false_iff {s : State} :
    s.replyDone = false ↔ s.parser = .reply ∧ s.rpPos < s.rpPayload.length := by
  simp [State.replyDone]

/-! ### Turns -/

/-- Away from the dispatch unit an agent has what it offers. -/
theorem offerAt_of_ne_dispatch {s : State} {p : Port} (hp : p ≠ .dispatch) : s.offerAt p = findOffer p s.offers :=
  if_neg hp

/-- The host's turn with bytes that are exactly one command (30_encoding R85). -/
theorem turnFetch_host {s : State} {bytes : List Byte} {i : Instr} (hoffer : findOffer .host s.offers = some bytes)
    (hdec : exact (decodeCommand bytes) = .ok i) : turnFetch .host s = .run i s := by
  have hat : s.offerAt .host = some bytes := (offerAt_of_ne_dispatch (by decide)).trans hoffer
  simp [turnFetch, hat, hdec]

/-- The turn of a port other than the host's whose bytes are exactly one of its events (30_encoding R86). -/
theorem turnFetch_event {s : State} {p : Port} {bytes : List Byte} {i : Instr} (hp : p ≠ .host)
    (hoffer : s.offerAt p = some bytes) (hdec : exact (decodeEvent bytes) = .ok i) (hport : portOf i = some p) :
    turnFetch p s = .run i s := by
  simp [turnFetch, hoffer, hp, hdec, hport]

/-- The dispatch unit's turn needs no offer: it is always the event `SRV_DISPATCH` (45_dispatch R287). -/
theorem turnFetch_dispatch (s : State) : turnFetch .dispatch s = .run .srvDispatch s :=
  turnFetch_event (bytes := [0x90#8]) (by decide) rfl rfl rfl

/-! ### Passes of the loops -/

/-- A decoded subframe at `PP` is run; there is one only where bytes are left (45_dispatch R288). -/
theorem dispatchFetch_of_decodeSub {s : State} {i : Instr} {rest : List Byte}
    (hdec : decodeSub s.cfg (s.payload.drop s.pp) = .ok (i, rest)) : dispatchFetch s = .run i s := by
  cases hbytes : s.payload.drop s.pp with
  | nil =>
    rw [hbytes] at hdec
    cases hdec
  | cons code tail =>
    rw [hbytes] at hdec
    simp only [dispatchFetch, hbytes, hdec]

/-- A decoded subframe at the reply parser's index is run (44_subframe_codec R260). -/
theorem replyFetch_of_decodeSub {s : State} {i : Instr} {rest : List Byte}
    (hdec : decodeSub s.cfg (s.rpPayload.drop s.rpPos) = .ok (i, rest)) : replyFetch s = .run i s := by
  simp only [replyFetch, hdec]

/-- A complete candidate after the header search is run, in the state where the bytes before it are discarded
(43_frame_sync R182). -/
theorem scanFetch_of_decodeFrame {s : State} {i : Instr} {rest : List Byte}
    (hdec : decodeFrame s.cfg (s.rxBuf.dropWhile (fun x => x != 0x54#8)) = .ok (i, rest)) :
    scanFetch s = .run i { s with rxBuf := s.rxBuf.dropWhile (fun x => x != 0x54#8) } := by
  simp only [scanFetch, hdec]

/-! ### The obligation -/

/-- Settles O12: at each of its six positions `fetch` finds the decoded instruction, and a step runs what is fetched. -/
theorem stepRunsFetched : Obligations.StepRunsFetched := by
  intro s i
  refine ⟨?command, ?event, ?dispatchTurn, ?subframe, ?reply, ?frame⟩
  case command =>
    intro r bytes hparser hrx hsched hoffer hdec
    exact step_of_fetch_run ((fetch_take hparser hrx hsched).trans (turnFetch_host hoffer hdec))
  case event =>
    intro r p bytes hparser hrx hsched hhost hdispatch hoffer hdec hport
    have hat : s.offerAt p = some bytes := (offerAt_of_ne_dispatch hdispatch).trans hoffer
    exact step_of_fetch_run ((fetch_take hparser hrx hsched).trans (turnFetch_event hhost hat hdec hport))
  case dispatchTurn =>
    intro r hparser hrx hsched
    exact step_of_fetch_run ((fetch_take hparser hrx hsched).trans (turnFetch_dispatch s))
  case subframe =>
    intro rest hparser hpp habort htunnel hdec
    have hdone : s.dispatchDone = false := dispatchDone_eq_false_iff.mpr ⟨hpp, habort, htunnel⟩
    exact step_of_fetch_run ((fetch_dispatch hparser hdone).trans (dispatchFetch_of_decodeSub hdec))
  case reply =>
    intro rest hparser hpos hdec
    have hdone : s.replyDone = false := replyDone_eq_false_iff.mpr ⟨hparser, hpos⟩
    exact step_of_fetch_run ((fetch_reply hparser hdone).trans (replyFetch_of_decodeSub hdec))
  case frame =>
    intro b rest hparser hrx hb hdec
    subst hb
    exact step_of_fetch_run ((fetch_scan hparser hrx).trans (scanFetch_of_decodeFrame hdec))

end Sys2Proof.Machine
end

section
/-! What a step can be between two steps of the spec (00_scope R3, R4; log 6, log 7): one inversion of `step`, from which
every statement about all steps is derived. -/

namespace Sys2Proof.Machine

/-- The kinds of step of a settled state: no agent moves or the one that has the turn waits, RESET, bytes at the host
port that are no command, a host command, or an event at another port. -/
inductive TurnStep (s t : State) : Prop where
  | wait (next : t = s.wait)
  | reset (turn : s.sched.head? = some .reset) (next : t = s.resetBlock)
  | badCommand (turn : s.sched.head? = some (.take .host)) (next : t = (s.accept .host).raise .badCmd)
  | command (i : Instr) (turn : s.sched.head? = some (.take .host)) (lang : i.language = .command)
      (next : exec i s = .next t)
  | event (p : Port) (i : Instr) (turn : s.sched.head? = some (.take p)) (notHost : p ≠ .host)
      (port : portOf i = some p) (next : exec i s = .next t)

/-- With no loop in progress and an empty schedule nothing but the outputs changes (log 6). -/
theorem step_of_sched_nil {s : State} (hs : s.settled) (hsched : s.sched = []) : step s = .next s.wait := by
  obtain ⟨hparser, hrx, _⟩ := hs
  simp only [step, fetch, hparser, if_neg hrx, hsched]

/-- RESET at a step boundary (70_reset_and_hazards R390). -/
theorem step_of_reset {s : State} {r : List Move} (hs : s.settled) (hsched : s.sched = .reset :: r) :
    step s = .next s.resetBlock := by
  obtain ⟨hparser, hrx, _⟩ := hs
  simp only [step, fetch, hparser, if_neg hrx, hsched]

/-- An agent's turn with nothing offered. -/
theorem turnFetch_none {s : State} {p : Port} (hoffer : s.offerAt p = none) : turnFetch p s = .done (.next s.wait) := by
  simp only [turnFetch, hoffer]

/-- The host's turn with bytes that are not exactly one command (30_encoding R87, log 9). -/
theorem turnFetch_badCommand {s : State} {bytes : List Byte} {e : DecodeError} (hoffer : s.offerAt .host = some bytes)
    (hdec : exact (decodeCommand bytes) = .error e) :
    turnFetch .host s = .done (.next ((s.accept .host).raise .badCmd)) := by
  simp [turnFetch, hoffer, hdec]

/-- The turn of another port with bytes that are none of its events (log 10). -/
theorem turnFetch_undefined {s : State} {p : Port} {bytes : List Byte} (hp : p ≠ .host)
    (hoffer : s.offerAt p = some bytes) (hdec : ∀ i, exact (decodeEvent bytes) = .ok i → portOf i ≠ some p) :
    turnFetch p s = .done (.refused .undefinedEvent) := by
  simp only [turnFetch, hoffer, if_neg hp]
  split
  · rename_i i hi
    exact if_neg (hdec i hi)
  · rfl

/-- EVERYTHING A STEP CAN BE between two steps of the spec. -/
theorem step_cases {s t : State} (hs : s.settled) (h : step s = .next t) : TurnStep s t := by
  match hsched : s.sched with
  | [] =>
    rw [step_of_sched_nil hs hsched] at h
    exact .wait (Host.Outcome.next.inj h).symm
  | .reset :: r =>
    rw [step_of_reset hs hsched] at h
    exact .reset (by rw [hsched]; rfl) (Host.Outcome.next.inj h).symm
  | .take p :: r =>
    have hturn : s.sched.head? = some (.take p) := by rw [hsched]; rfl
    obtain ⟨hparser, hrx, -⟩ := hs
    have hfetch : fetch s = turnFetch p s := fetch_take hparser hrx hsched
    rw [step, hfetch] at h
    cases hoffer : s.offerAt p with
    | none =>
      rw [turnFetch_none hoffer] at h
      exact .wait (Host.Outcome.next.inj h).symm
    | some bytes =>
      by_cases hp : p = .host
      · subst hp
        cases hdec : exact (decodeCommand bytes) with
        | error e =>
          rw [turnFetch_badCommand hoffer hdec] at h
          exact .badCommand hturn (Host.Outcome.next.inj h).symm
        | ok i =>
          rw [turnFetch_host hoffer hdec] at h
          exact .command i hturn (decodeCommand_language (exact_ok hdec)) h
      · by_cases hdec : ∃ i, exact (decodeEvent bytes) = .ok i ∧ portOf i = some p
        · obtain ⟨i, hi, hport⟩ := hdec
          rw [turnFetch_event hp hoffer hi hport] at h
          exact .event p i hturn hp hport h
        · rw [turnFetch_undefined hp hoffer fun i hi hport => hdec ⟨i, hi, hport⟩] at h
          cases h

end Sys2Proof.Machine
end

section
/-! The invariant through the shared operations (10_state R23 to R39): accepting a turn, raising a fault, arming a read,
ending a transmission, and RESET. -/

namespace Sys2Proof.Machine

/-- The part of the invariant that says nothing of who owns the framer; one byte may have just arrived. -/
abbrev State.unitsOk (s : State) : Prop :=
  s.cfg.wf ∧ s.parser = .none ∧ s.rxBuf.length ≤ s.cfg.maxPayload + 11 ∧ s.rxfOk ∧ s.txOk ∧ s.vdOk ∧ s.statsOk ∧
    s.tunnelsOk ∧ s.boundsOk

/-- The invariant is about the units and about who owns the framer. -/
theorem State.Inv.unitsOk {s : State} (h : s.Inv) : s.unitsOk := by
  obtain ⟨hwf, hset, hrx, hrxf, htx, -, hvd, hstats, htun, hbnd⟩ := h
  exact ⟨hwf, hset.1, by have := hrx.1; omega, hrxf, htx, hvd, hstats, htun, hbnd⟩

/-- No loop is in progress (10_state R25, R28, R29). -/
theorem State.Inv.settled {s : State} (h : s.Inv) : s.settled := by
  obtain ⟨-, hset, -⟩ := h
  exact hset

/-- The transmit registers are in range (10_state R27). -/
theorem State.Inv.txOk {s : State} (h : s.Inv) : s.txOk := by
  obtain ⟨-, -, -, -, htx, -⟩ := h
  exact htx

/-- The cycle of the enabled dispatch unit (45_dispatch R284, R285, R293). -/
theorem State.Inv.srvOn {s : State} (h : s.Inv) (hen : s.srvEn = true) :
    (s.srvState = .idle ↔ s.rxState = .readingMore) ∧ (s.srvState = .replyAssembled ↔ s.txState = .busy) ∧
      (s.rxState = .readingMore → s.rxOwner = .server ∧ s.rxCap = s.cfg.maxPayload) ∧
      (s.txState = .busy → s.txOwner = .server) ∧ (s.srvState = .frameReceived → s.rxfTrunc = false) := by
  obtain ⟨-, -, -, -, -, hsrv, -⟩ := h
  rwa [State.srvOk, if_pos hen] at hsrv

/-- While the dispatch unit is disabled the framer is the host's (45_dispatch R280). -/
theorem State.Inv.srvOff {s : State} (h : s.Inv) (hen : s.srvEn = false) :
    s.srvState = .idle ∧ (s.rxState = .readingMore → s.rxOwner = .host) ∧ (s.txState = .busy → s.txOwner = .host) := by
  obtain ⟨-, -, -, -, -, hsrv, -⟩ := h
  rwa [State.srvOk, if_neg (by simp [hen])] at hsrv

/-- The disabled dispatch unit with the framer the host's (45_dispatch R280). -/
theorem srvOk_disabled {s : State} (hen : s.srvEn = false) (hidle : s.srvState = .idle)
    (hrx : s.rxState = .readingMore → s.rxOwner = .host) (htx : s.txState = .busy → s.txOwner = .host) : s.srvOk := by
  rw [State.srvOk, if_neg (by simp [hen])]
  exact ⟨hidle, hrx, htx⟩

/-- The enabled dispatch unit sends its reply, with no read pending (45_dispatch R293). -/
theorem srvOk_replying {s : State} (hen : s.srvEn = true) (hrx : s.rxState = .idle)
    (hsrv : s.srvState = .replyAssembled) (htx : s.txState = .busy) (howner : s.txOwner = .server) : s.srvOk := by
  rw [State.srvOk, if_pos hen]
  exact ⟨by simp [hsrv, hrx], by simp [hsrv, htx], by simp [hrx], fun _ => howner, by simp [hsrv]⟩

/-- Between two steps a read that is not pending is idle (10_state R25). -/
theorem State.Inv.rx_idle {s : State} (h : s.Inv) (hrx : s.rxState ≠ .readingMore) : s.rxState = .idle := by
  obtain ⟨-, ⟨-, hscan, -⟩, -⟩ := h
  cases hst : s.rxState <;> simp_all

/-- A read of the dispatch unit's is pending only while the unit is enabled (45_dispatch R285). -/
theorem State.Inv.rx_server {s : State} (h : s.Inv) (hrx : s.rxState = .readingMore) (hown : s.rxOwner = .server) :
    s.srvEn = true := by
  by_contra hen
  obtain ⟨-, hhost, -⟩ := h.srvOff (by simpa using hen)
  simp [hown] at hhost
  exact hhost hrx

/-- A transmission of the dispatch unit's is pending only while the unit is enabled (45_dispatch R293). -/
theorem State.Inv.tx_server {s : State} (h : s.Inv) (htx : s.txState = .busy) (hown : s.txOwner = .server) :
    s.srvEn = true := by
  by_contra hen
  obtain ⟨-, -, hhost⟩ := h.srvOff (by simpa using hen)
  simp [hown] at hhost
  exact hhost htx

/-- A transmission of the host's is pending only while the dispatch unit is disabled (45_dispatch R284). -/
theorem State.Inv.tx_host {s : State} (h : s.Inv) (htx : s.txState = .busy) (hown : s.txOwner = .host) :
    s.srvEn = false := by
  by_contra hen
  obtain ⟨-, -, -, hserver, -⟩ := h.srvOn (by simpa using hen)
  simp [hown] at hserver
  exact hserver htx

/-- A read of the host's is pending only while the dispatch unit is disabled (45_dispatch R284). -/
theorem State.Inv.rx_host {s : State} (h : s.Inv) (hrx : s.rxState = .readingMore) (hown : s.rxOwner = .host) :
    s.srvEn = false := by
  by_contra hen
  obtain ⟨-, -, hserver, -⟩ := h.srvOn (by simpa using hen)
  simp [hown] at hserver
  exact hserver hrx

/-- A frame is held only by the enabled dispatch unit, with no read and no transmission pending, and it is whole
(45_dispatch R285, R287). -/
theorem State.Inv.received {s : State} (h : s.Inv) (hsrv : s.srvState = .frameReceived) :
    s.srvEn = true ∧ s.rxState = .idle ∧ s.txState ≠ .busy ∧ s.rxfPayload.length = s.rxfLen.toNat := by
  have hen : s.srvEn = true := by
    by_contra hen
    have hidle := (h.srvOff (by simpa using hen)).1
    rw [hsrv] at hidle
    cases hidle
  obtain ⟨hread, hbusy, -, -, htrunc⟩ := h.srvOn hen
  obtain ⟨-, -, -, ⟨-, -, hwhole⟩, -⟩ := h.unitsOk
  refine ⟨hen, h.rx_idle fun hrx => ?_, fun htx => ?_, hwhole (htrunc hsrv)⟩
  · have := hread.mpr hrx
    simp [hsrv] at this
  · have := hbusy.mpr htx
    simp [hsrv] at this

/-- The invariant does not depend on turns, offers and outputs. -/
theorem State.Inv.accept {s : State} (h : s.Inv) (p : Port) : (s.accept p).Inv := h

/-- A raised fault keeps the invariant: it only sets a defined bit of `FAULT` (10_state R34). -/
theorem State.Inv.raise {s : State} (h : s.Inv) (f : FaultBit) : (s.raise f).Inv := by
  obtain ⟨hwf, hset, hrx, hrxf, htx, hsrv, hvd, hstats, htun, hpp, hreply, hrq, hfault, hmap, hused⟩ := h
  exact ⟨hwf, hset, hrx, hrxf, htx, hsrv, hvd, hstats, htun, hpp, hreply, hrq, raise_fault_lt _ f hfault, hmap, hused⟩

/-- The idle dispatch unit may arm its read when it has no transmission (45_dispatch R285). -/
theorem scanReady_server {s : State} (h : s.unitsOk) (hen : s.srvEn = true) (hidle : s.srvState = .idle)
    (htx : s.txState ≠ .busy) :
    ScanReady { s with rxCap := s.cfg.maxPayload, rxOwner := .server, rxState := .awaitFrame } := by
  obtain ⟨hwf, hparser, hbuf, hrxf, htxok, hvd, hstats, htun, hbnd⟩ := h
  exact ⟨hwf, hparser, hbuf, le_refl _, hrxf, htxok, hvd, hstats, htun, hbnd, hidle, by simp [hen, htx]⟩

/-- The host may arm a read while the dispatch unit is disabled (43_frame_sync R190). -/
theorem scanReady_host {s : State} (h : s.Inv) (hen : s.srvEn = false) {cap : Nat} (hcap : cap ≤ s.cfg.maxPayload) :
    ScanReady { s with rxCap := cap, rxOwner := .host, rxState := .awaitFrame } := by
  obtain ⟨hidle, -, howner⟩ := h.srvOff hen
  obtain ⟨hwf, hparser, hbuf, hrxf, htxok, hvd, hstats, htun, hbnd⟩ := h.unitsOk
  exact ⟨hwf, hparser, hbuf, hcap, hrxf, htxok, hvd, hstats, htun, hbnd, hidle, by simpa [hen] using howner⟩

/-- A pending read may be scanned with one byte more (43_frame_sync R191, R192). -/
theorem scanReady_byte {s : State} (h : s.Inv) (hrx : s.rxState = .readingMore) (d : Byte) :
    ScanReady { s with rxBuf := s.rxBuf ++ [d], rxState := .awaitFrame } := by
  have hown : s.srvState = .idle ∧ (if s.srvEn then s.rxOwner = .server ∧ s.rxCap = s.cfg.maxPayload ∧ s.txState ≠ .busy
      else s.rxOwner = .host ∧ (s.txState = .busy → s.txOwner = .host)) := by
    by_cases hen : s.srvEn = true
    · obtain ⟨hread, hbusy, howner, -⟩ := h.srvOn hen
      have hidle := hread.mpr hrx
      rw [if_pos hen]
      exact ⟨hidle, (howner hrx).1, (howner hrx).2, fun htx => by simp [hidle] at hbusy; exact hbusy htx⟩
    · obtain ⟨hidle, hhost, howner⟩ := h.srvOff (by simpa using hen)
      rw [if_neg hen]
      exact ⟨hidle, hhost hrx, howner⟩
  obtain ⟨hwf, hparser, -, hrxf, htxok, hvd, hstats, htun, hbnd⟩ := h.unitsOk
  obtain ⟨-, -, ⟨hbuf, hcap, -⟩, -⟩ := h
  obtain ⟨hidle, howner⟩ := hown
  have hlen : (s.rxBuf ++ [d]).length ≤ s.cfg.maxPayload + 11 := by
    rw [List.length_append, List.length_singleton]
    omega
  exact ⟨hwf, hparser, hlen, hcap, hrxf, htxok, hvd, hstats, htun, hbnd, hidle, howner⟩

/-- The idle dispatch unit arms its read again (45_dispatch R285, R287, R293). -/
theorem rearm_inv {s : State} (s0 : State) (h : s.unitsOk) (hen : s.srvEn = true) (hidle : s.srvState = .idle)
    (htx : s.txState ≠ .busy) (hrx : s.rxState = .idle) :
    ∃ t, arm s0 s.cfg.maxPayload .server s = .next t ∧ t.Inv :=
  arm_ready hrx (scanReady_server h hen hidle htx)

/-- A pending read that ends leaves the host's framer in its invariant (43_frame_sync R195 to R197). -/
theorem endRead_inv {s : State} (h : s.Inv) (hen : s.srvEn = false) : State.Inv { s with rxState := .idle } := by
  obtain ⟨hidle, -, howner⟩ := h.srvOff hen
  obtain ⟨hwf, ⟨hparser, -, hsrv⟩, ⟨hbuf, hcap, -⟩, hrxf, htx, -, hvd, hstats, htun, hbnd⟩ := h
  exact ⟨hwf, ⟨hparser, by simp, hsrv⟩, ⟨hbuf, hcap, by simp⟩, hrxf, htx, srvOk_disabled hen hidle nofun howner, hvd,
    hstats, htun, hbnd⟩

/-- The transmit registers of the host's framer, with no transmission pending. -/
theorem endTx_inv {s : State} (h : s.Inv) (hen : s.srvEn = false) {buf : List Byte} {pos : Nat} (owner : Owner)
    (hbuf : buf.length ≤ s.cfg.txBufSize) (hpos : pos ≤ buf.length) :
    State.Inv { s with txBuf := buf, txPos := pos, txOwner := owner, txState := .idle } := by
  obtain ⟨hidle, hhost, -⟩ := h.srvOff hen
  obtain ⟨hwf, hset, hrx, hrxf, -, -, hvd, hstats, htun, hbnd⟩ := h
  exact ⟨hwf, hset, hrx, hrxf, ⟨hbuf, hpos, by simp⟩, srvOk_disabled hen hidle hhost nofun, hvd, hstats, htun, hbnd⟩

/-- RESET gives a state of the invariant when the parameters meet 00_scope R1 (70_reset_and_hazards R390). -/
theorem resetBlock_inv {s : State} (hwf : s.cfg.wf) : s.resetBlock.Inv := by
  have hpos : 0 < 2 ^ s.cfg.statsWidth := Nat.two_pow_pos _
  have hchannels : s.resetBlock.tunnels.map Tunnel.id = s.cfg.tunnelIds := by
    simp [State.resetBlock, State.resetWith, Function.comp_def]
  have hempty : ∀ t ∈ s.resetBlock.tunnels, t.rxq.length ≤ s.cfg.tunnelRxCap ∧ t.txq.length ≤ s.cfg.tunnelTxCap := by
    simp [State.resetBlock, State.resetWith]
  exact ⟨hwf, ⟨rfl, nofun, nofun⟩, ⟨Nat.zero_le _, Nat.zero_le _, nofun⟩, ⟨Nat.zero_le _, le_refl _, fun _ => rfl⟩,
    ⟨Nat.zero_le _, le_refl _, nofun⟩, ⟨rfl, nofun, nofun⟩, ⟨fun _ => ⟨rfl, rfl⟩, nofun, nofun, nofun⟩,
    ⟨hpos, hpos, hpos, hpos, hpos, hpos, hpos⟩, ⟨hchannels, hempty⟩,
    ⟨Nat.zero_le _, Nat.zero_le _, Nat.zero_le _, Nat.two_pow_pos 9, List.Pairwise.nil, Nat.zero_le _⟩⟩

end Sys2Proof.Machine
end

section
/-! What the transmit path and the dispatch unit do, one rule per branch (42_frame_codec R165 to R168;
45_dispatch R287, R293). -/

namespace Sys2Proof.Machine

/-- The end of the dispatch unit's transmission arms its read again; a transport error is counted first (42_frame_codec
R167, R168; 45_dispatch R293). -/
theorem completeTx_server (s0 : State) (st : Status) (sent : Nat) (s : State) :
    ∃ u, (u = s ∨ u = s.bump .writeError) ∧
      completeTx s0 .server st sent s = arm s0 s.cfg.maxPayload .server { u with srvState := .idle } := by
  cases st with
  | transportError e => exact ⟨_, .inr rfl, rfl⟩
  | ok => exact ⟨_, .inl rfl, rfl⟩
  | truncated => exact ⟨_, .inl rfl, rfl⟩
  | canceled => exact ⟨_, .inl rfl, rfl⟩
  | timedOut => exact ⟨_, .inl rfl, rfl⟩
  | failed => exact ⟨_, .inl rfl, rfl⟩

/-- A batch that fits and has bytes is pending (42_frame_codec R165). -/
theorem startTx_busy {frames : List Frame} {s : State} (s0 : State) (owner : Owner)
    (hfits : txOversize s.cfg frames = false) (hbytes : frames.flatMap (encodeFrame s.cfg) ≠ []) :
    startTx s0 frames owner s = .next { s with
      txBuf := frames.flatMap (encodeFrame s.cfg), txPos := 0, txOwner := owner, txState := .busy } := by
  simp only [startTx, hfits, if_neg hbytes, Bool.false_eq_true, if_false]

/-- A batch without bytes completes at once (42_frame_codec R165). -/
theorem startTx_empty {frames : List Frame} {s : State} (s0 : State) (owner : Owner)
    (hfits : txOversize s.cfg frames = false) (hbytes : frames.flatMap (encodeFrame s.cfg) = []) :
    startTx s0 frames owner s = completeTx s0 owner .ok 0 { s with txBuf := [], txPos := 0, txOwner := owner } := by
  simp [startTx, hfits, hbytes]

/-- The host's oversize batch raises the fault and completes `FAILED` (42_frame_codec R165). -/
theorem startTx_oversize_host {frames : List Frame} {s : State} (s0 : State) (hbig : txOversize s.cfg frames = true) :
    startTx s0 frames .host s = .next ((s.raise .txOversize).emit .tx .failed (.sent 0)) := by
  simp [startTx, hbig]

/-- The dispatch unit's oversize reply is a modelling error (93_implementation_defined U14). -/
theorem startTx_oversize_server {frames : List Frame} {s : State} (s0 : State) (hbig : txOversize s.cfg frames = true) :
    startTx s0 frames .server s = .fault .replyPath := by
  simp [startTx, hbig]

/-- A batch that fits takes no more than the transmit buffer (42_frame_codec R162, R165). -/
theorem batch_fits {c : Config} {frames : List Frame} (h : txOversize c frames = false) :
    (frames.flatMap (encodeFrame c)).length ≤ c.txBufSize := by
  simp only [txOversize, Bool.or_eq_false_iff, decide_eq_false_iff_not, not_lt] at h
  rw [batch_length]
  exact h.2

/-- A reply frame within `REPLY_CAP` fits the transmit buffer (00_scope R1, 45_dispatch R293). -/
theorem replyFrame_fits {s : State} (hwf : s.cfg.wf) (hreply : s.replyBuf.length ≤ s.cfg.maxPayload) :
    txOversize s.cfg [s.replyFrame] = false := by
  have hlen : frameLen s.replyFrame ≤ s.replyBuf.length + 11 := frameLen_le _
  have hpayload : s.replyFrame.payload = s.replyBuf := rfl
  obtain ⟨-, hbuf, -⟩ := hwf
  simp only [txOversize, List.any_cons, List.any_nil, Bool.or_false, List.map_cons, List.map_nil, List.sum_cons,
    List.sum_nil, Bool.or_eq_false_iff, decide_eq_false_iff_not, hpayload]
  omega

/-- A frame is never empty (42_frame_codec R161). -/
theorem encodeFrame_length_pos (c : Config) (f : Frame) : 0 < (encodeFrame c f).length := by
  rw [encodeFrame_length, frameLen]
  omega

/-- `SRV_DISPATCH` is not enabled without a frame (45_dispatch R287). -/
theorem execSrvDispatch_wait {s : State} (hsrv : s.srvState ≠ .frameReceived) : execSrvDispatch s = .next s.wait :=
  if_pos hsrv

/-- A frame to another node is counted and dropped (45_dispatch R286). -/
theorem execSrvDispatch_skip {s : State} (hsrv : s.srvState = .frameReceived) (haddr : s.isAddressed = false) :
    execSrvDispatch s =
      finish (s.accept .dispatch) (({ s.accept .dispatch with srvState := .dispatching } : State).bump .wrongId) := by
  simp [execSrvDispatch, hsrv, haddr]

/-- A frame of which bytes are missing is a modelling error (93_implementation_defined U12). -/
theorem execSrvDispatch_missing {s : State} (hsrv : s.srvState = .frameReceived) (haddr : s.isAddressed = true)
    (hlen : s.rxfPayload.length < s.rxfLen.toNat) : execSrvDispatch s = .fault .outOfBounds := by
  simp [execSrvDispatch, hsrv, haddr, hlen]

/-- A frame to the block is parsed, then answered or dropped (45_dispatch R287). -/
theorem execSrvDispatch_parse {s : State} (hsrv : s.srvState = .frameReceived) (haddr : s.isAddressed = true)
    (hlen : s.rxfLen.toNat ≤ s.rxfPayload.length) :
    execSrvDispatch s = (dispatchLoop s.payload.length s.parsing).andThen (dispatchConclude (s.accept .dispatch)) := by
  simp only [execSrvDispatch, hsrv, haddr, ne_eq, not_true_eq_false, if_false, Bool.true_eq_false,
    if_neg (not_lt.mpr hlen)]
  rfl

/-- The parse of a frame's payload ends, having done only what a dispatch step may do (45_dispatch R287, R288). -/
theorem parsing_ends (s : State) :
    ∃ u, dispatchLoop s.payload.length s.parsing = .next u ∧ DispatchStep s.parsing u ∧ u.pp ≤ s.payload.length := by
  have hpayload : s.parsing.payload = s.payload := rfl
  have hpp : s.parsing.pp = 0 := rfl
  obtain ⟨u, hloop, hstep, -, hle⟩ := dispatchLoop_ends s.payload.length (s := s.parsing) rfl (by omega)
    (by rw [hpayload]; omega)
  exact ⟨u, hloop, hstep, hle⟩

/-- After a parse that needs no reply the dispatch unit waits for the next frame (45_dispatch R287). -/
theorem dispatchConclude_finish {s0 s : State} (h : (s.need && s.sendOk) = false) :
    dispatchConclude s0 s = finish s0 { s with parser := .none } := by
  simp [dispatchConclude, h]

/-- After a parse that needs a reply it is sent (45_dispatch R287, R293). -/
theorem dispatchConclude_reply {s0 s : State} (h : (s.need && s.sendOk) = true) :
    dispatchConclude s0 s = sendReply s0 { s with parser := .none } := by
  simp [dispatchConclude, h]

/-- The registers of the framer that no dispatch step changes. -/
theorem DispatchStep.framer {s t : State} (h : DispatchStep s t) :
    t.rxState = s.rxState ∧ t.txState = s.txState ∧ t.srvEn = s.srvEn ∧ t.rxCap = s.rxCap ∧ t.rxBuf = s.rxBuf := by
  rw [h.frame]
  exact ⟨rfl, rfl, rfl, rfl, rfl⟩

/-- The units after the parse of a frame (45_dispatch R287, R290). -/
theorem parsed_unitsOk {s u : State} (h : s.Inv) (hstep : DispatchStep s.parsing u) (hpp : u.pp ≤ s.payload.length) :
    State.unitsOk { u with parser := .none } := by
  obtain ⟨hwf, -, hbuf, hrxf, htx, hvd, hstats, htun, -, -, hrq, hfault, hmap, hused⟩ := h.unitsOk
  have hpp' : u.pp ≤ s.cfg.maxPayload := by
    have hlen : s.payload.length ≤ s.rxfLen.toNat := List.length_take_le _ _
    have := hrxf.1
    omega
  have hreply : u.replyBuf.length ≤ s.cfg.replyCap := hstep.reply (Nat.zero_le _)
  have hstats' : u.statsOk := hstep.stats hstats
  have htun' : u.tunnelsOk := hstep.tunnels htun
  have hframe : u.cfg.wf ∧ u.rxBuf.length ≤ u.cfg.maxPayload + 11 ∧ u.rxfOk ∧ u.txOk ∧ u.vdOk ∧
      u.rqBuf.length ≤ u.cfg.rqCap ∧ u.fault.toNat < 2 ^ 9 ∧ rpSorted u.rpMap ∧ u.rpUsed.toNat ≤ u.cfg.maxPayload := by
    rw [hstep.frame]
    exact ⟨hwf, hbuf, hrxf, htx, hvd, hrq, hfault, hmap, hused⟩
  obtain ⟨hwf', hbuf', hrxf', htx', hvd', hrq', hfault', hmap', hused'⟩ := hframe
  have hcfg : u.cfg = s.cfg := hstep.cfg
  exact ⟨hwf', rfl, hbuf', hrxf', htx', hvd', hstats', htun', by rw [← hcfg] at hpp'; exact hpp',
    by rw [← hcfg] at hreply; exact hreply, hrq', hfault', hmap', hused'⟩

end Sys2Proof.Machine
end

section
/-! Every event and every command keeps the invariant and stops in no modelling error, one rule per instruction that changes
a field the invariant speaks of. -/

namespace Sys2Proof.Machine

/-- A transmission of the dispatch unit's that ends (42_frame_codec R167, R168; 45_dispatch R293). -/
theorem completeTx_server_inv {s : State} (s0 : State) (st : Status) (sent : Nat) (h : s.unitsOk) (hen : s.srvEn = true)
    (htx : s.txState ≠ .busy) (hrx : s.rxState = .idle) :
    ∃ t, completeTx s0 .server st sent s = .next t ∧ t.Inv := by
  obtain ⟨u, hu, heq⟩ := completeTx_server s0 st sent s
  rw [heq]
  rcases hu with rfl | rfl
  · exact rearm_inv (s := { u with srvState := .idle }) s0 h hen rfl htx hrx
  · obtain ⟨hwf, hparser, hbuf, hrxf, htxok, hvd, hstats, htun, hbnd⟩ := h
    exact rearm_inv (s := { s.bump .writeError with srvState := .idle }) s0
      ⟨hwf, hparser, hbuf, hrxf, htxok, hvd, bump_statsOk s _ hstats, htun, hbnd⟩ hen rfl htx hrx

/-- A pending transmission that ends, of the host's or of the dispatch unit's (42_frame_codec R167, R168). -/
theorem completeTx_inv {s : State} (h : s.Inv) (htx : s.txState = .busy) {owner : Owner} (howner : s.txOwner = owner)
    (s0 : State) (st : Status) (sent pos : Nat) (r : Result) (hpos : pos ≤ s.txBuf.length) :
    ∃ t, completeTx s0 owner st sent { s with txPos := pos, result := r, txState := .idle } = .next t ∧ t.Inv := by
  obtain ⟨hbuf, -, -⟩ := h.txOk
  cases owner with
  | host => exact ⟨_, rfl, endTx_inv h (h.tx_host htx howner) s.txOwner hbuf hpos⟩
  | server =>
    have hen := h.tx_server htx howner
    obtain ⟨hread, hbusy, -⟩ := h.srvOn hen
    have hassembled := hbusy.mpr htx
    have hrx : s.rxState = .idle := h.rx_idle fun hrx => by
      have := hread.mpr hrx
      simp [hassembled] at this
    obtain ⟨hwf, hparser, hrxbuf, hrxf, -, hvd, hstats, htun, hbnd⟩ := h.unitsOk
    exact completeTx_server_inv (s := { s with txPos := pos, result := r, txState := .idle }) s0 st sent
      ⟨hwf, hparser, hrxbuf, hrxf, ⟨hbuf, hpos, nofun⟩, hvd, hstats, htun, hbnd⟩ hen nofun hrx

/-- `TX_TAKE` (42_frame_codec R167). -/
theorem execTxTake_inv {s : State} (h : s.Inv) : ∃ t, execTxTake s = .next t ∧ t.Inv := by
  by_cases htx : s.txState = .busy
  · obtain ⟨hbuf, -, hlt⟩ := h.txOk
    have hpos := hlt htx
    simp only [execTxTake, htx, ne_eq, not_true_eq_false, if_false, List.getElem?_eq_getElem hpos]
    split
    · exact completeTx_inv (h.accept .transportTx) htx rfl _ _ _ _ _ hpos
    · rename_i hlast
      obtain ⟨hwf, hset, hrx, hrxf, -, hsrv, hvd, hstats, htun, hbnd⟩ := h
      exact ⟨_, rfl, hwf, hset, hrx, hrxf, ⟨hbuf, hpos, fun _ => by simp only [State.accept_txBuf]; omega⟩, hsrv, hvd,
        hstats, htun, hbnd⟩
  · exact ⟨_, if_pos htx, h⟩

/-- `TX_TERR` (42_frame_codec R168). -/
theorem execTxTerr_inv {s : State} (h : s.Inv) (e : Word) : ∃ t, execTxTerr e s = .next t ∧ t.Inv := by
  by_cases htx : s.txState = .busy
  · obtain ⟨-, hpos, -⟩ := h.txOk
    simp only [execTxTerr, htx, ne_eq, not_true_eq_false, if_false]
    exact completeTx_inv (h.accept .transportTx) htx rfl _ _ _ s.txPos .none hpos
  · exact ⟨_, if_pos htx, h⟩

/-- `TX_FRAMES` (42_frame_codec R166). -/
theorem execTxFrames_inv {s : State} (h : s.Inv) (frames : List Frame) :
    ∃ t, execTxFrames frames s = .next t ∧ t.Inv := by
  unfold execTxFrames
  dsimp only
  split
  · exact ⟨_, rfl, (h.accept .host).raise .serverOwns⟩
  · rename_i hen
    rw [Bool.not_eq_true] at hen
    split
    · exact ⟨_, rfl, (h.accept .host).raise .doubleWrite⟩
    · cases hfits : txOversize (s.accept .host).cfg frames with
      | true => exact ⟨_, startTx_oversize_host _ hfits, (h.accept .host).raise .txOversize⟩
      | false =>
        by_cases hbytes : frames.flatMap (encodeFrame (s.accept .host).cfg) = []
        · rename_i htx
          have hidle : (s.accept .host).txState = .idle := by
            cases hst : s.txState
            · exact hst
            · exact absurd hst htx
          have hend := endTx_inv (h.accept .host) hen .host (buf := []) (Nat.zero_le _) (le_refl 0)
          rw [← hidle] at hend
          exact ⟨_, startTx_empty _ _ hfits hbytes, hend⟩
        · refine ⟨_, startTx_busy _ _ hfits hbytes, ?_⟩
          obtain ⟨hidle, hhost, -⟩ := h.srvOff hen
          obtain ⟨hwf, hset, hrx, hrxf, -, -, hvd, hstats, htun, hbnd⟩ := h
          exact ⟨hwf, hset, hrx, hrxf, ⟨batch_fits hfits, Nat.zero_le _, fun _ => List.length_pos_iff.mpr hbytes⟩,
            srvOk_disabled hen hidle hhost fun _ => rfl, hvd, hstats, htun, hbnd⟩

/-- `RX_ARM` (43_frame_sync R190). -/
theorem execRxArm_inv {s : State} (h : s.Inv) (cap : Word) : ∃ t, execRxArm cap s = .next t ∧ t.Inv := by
  unfold execRxArm
  dsimp only
  split
  · exact ⟨_, rfl, (h.accept .host).raise .serverOwns⟩
  · rename_i hen
    split
    · exact ⟨_, rfl, (h.accept .host).raise .badCmd⟩
    · rename_i hcap
      by_cases hrx : s.rxState = .idle
      · exact arm_ready hrx (scanReady_host (h.accept .host) (by simpa using hen) (not_lt.mp hcap))
      · exact ⟨_, arm_pending hrx, (h.accept .host).raise .doubleRead⟩

/-- `RX_CANCEL` (43_frame_sync R195). -/
theorem execRxCancel_inv {s : State} (h : s.Inv) : ∃ t, execRxCancel s = .next t ∧ t.Inv := by
  unfold execRxCancel
  dsimp only
  split
  · exact ⟨_, rfl, (h.accept .host).raise .serverOwns⟩
  · rename_i hen
    split
    · exact ⟨_, rfl, h⟩
    · rename_i hrx
      have hoff : s.srvEn = false := by simpa using hen
      have howner : s.rxOwner ≠ .server := fun hserver => hen (h.rx_server (not_not.mp hrx) hserver)
      rw [if_neg howner]
      exact ⟨_, rfl, endRead_inv (s := s.accept .host) h hoff⟩

/-- `RX_BYTE` (43_frame_sync R191, R192). -/
theorem execRxByte_inv {s : State} (h : s.Inv) (d : Byte) : ∃ t, execRxByte d s = .next t ∧ t.Inv := by
  unfold execRxByte
  split
  · exact ⟨_, rfl, h⟩
  · rename_i hrx
    have hroom : ¬s.cfg.rxBufSize ≤ s.rxBuf.length := by
      obtain ⟨-, -, ⟨hbuf, -⟩, -⟩ := h
      unfold Config.rxBufSize
      omega
    rw [if_neg hroom]
    exact scan_ready (scanReady_byte (h.accept .transportRx) (not_not.mp hrx) d) rfl

/-- `RX_TERR` (43_frame_sync R197, 45_dispatch R285). -/
theorem execRxTerr_inv {s : State} (h : s.Inv) (e : Word) : ∃ t, execRxTerr e s = .next t ∧ t.Inv := by
  unfold execRxTerr
  split
  · exact ⟨_, rfl, h⟩
  · rename_i hrx
    have hread := not_not.mp hrx
    dsimp only
    cases howner : s.rxOwner with
    | host => exact ⟨_, rfl, endRead_inv (s := s.accept .transportRx) h (h.rx_host hread howner)⟩
    | server =>
      have hen := h.rx_server hread howner
      obtain ⟨hcycle, hassembled, -⟩ := h.srvOn hen
      have hidle : s.srvState = .idle := hcycle.mpr hread
      have htx : s.txState ≠ .busy := fun hbusy => by
        have := hassembled.mpr hbusy
        simp [hidle] at this
      exact rearm_inv (s := { s.accept .transportRx with rxState := .idle }) _ h.unitsOk hen hidle htx rfl

/-- `RX_TIMEOUT` (43_frame_sync R196). -/
theorem execRxTimeout_inv {s : State} (h : s.Inv) : ∃ t, execRxTimeout s = .next t ∧ t.Inv := by
  unfold execRxTimeout
  split
  · exact ⟨_, rfl, h⟩
  · rename_i hrx
    simp only [ne_eq, not_or, not_not] at hrx
    exact ⟨_, rfl, endRead_inv (s := s.accept .timer) h (h.rx_host hrx.1 hrx.2)⟩

/-- `SRV_START` (45_dispatch R283). -/
theorem execSrvStart_inv {s : State} (h : s.Inv) : ∃ t, execSrvStart s = .next t ∧ t.Inv := by
  unfold execSrvStart
  dsimp only
  split
  · exact ⟨_, rfl, (h.accept .host).raise .srvRestart⟩
  · split
    · exact ⟨_, rfl, (h.accept .host).raise .doubleRead⟩
    · rename_i hrx
      split
      · exact ⟨_, rfl, (h.accept .host).raise .doubleWrite⟩
      · rename_i htx
        exact rearm_inv (s := { s.accept .host with srvEn := true, srvState := .idle }) _ h.unitsOk rfl rfl htx
          (not_not.mp hrx)

/-- The reply of the idle transmitter is sent (45_dispatch R293). -/
theorem sendReply_inv {s : State} (s0 : State) (h : s.unitsOk) (hbuf : s.rxBuf.length ≤ s.cfg.maxPayload + 10)
    (hcap : s.rxCap ≤ s.cfg.maxPayload) (hen : s.srvEn = true) (hrx : s.rxState = .idle) (htx : s.txState ≠ .busy) :
    ∃ t, sendReply s0 s = .next t ∧ t.Inv := by
  obtain ⟨hwf, hparser, -, hrxf, -, hvd, hstats, htun, hbnd⟩ := h
  have hreply : s.replyBuf.length ≤ s.cfg.maxPayload := by
    obtain ⟨-, hreply, -⟩ := hbnd
    exact hreply
  have hfits : txOversize s.cfg [s.replyFrame] = false := replyFrame_fits hwf hreply
  have hpos : 0 < ([s.replyFrame].flatMap (encodeFrame s.cfg)).length := by
    simpa using encodeFrame_length_pos s.cfg s.replyFrame
  rw [sendReply, if_neg htx]
  have hbusy := startTx_busy (s := { s with srvState := .replyAssembled }) s0 .server hfits (List.length_pos_iff.mp hpos)
  exact ⟨_, hbusy, hwf, ⟨hparser, by simp [hrx], nofun⟩, ⟨hbuf, hcap, by simp [hrx]⟩, hrxf,
    ⟨batch_fits hfits, Nat.zero_le _, fun _ => hpos⟩, srvOk_replying hen hrx rfl rfl rfl, hvd, hstats, htun, hbnd⟩

/-- The end of a frame's dispatch (45_dispatch R287, R293). -/
theorem dispatchConclude_inv {s u : State} (s0 : State) (h : s.Inv) (hsrv : s.srvState = .frameReceived)
    (hstep : DispatchStep s.parsing u) (hpp : u.pp ≤ s.payload.length) :
    ∃ t, dispatchConclude s0 u = .next t ∧ t.Inv := by
  have hunits := parsed_unitsOk h hstep hpp
  obtain ⟨hen, hrx, htx, -⟩ := h.received hsrv
  obtain ⟨hrx', htx', hen', hcap', hbuf'⟩ := hstep.framer
  have hen : u.srvEn = true := hen'.trans hen
  have hrx : u.rxState = .idle := hrx'.trans hrx
  have htx : u.txState ≠ .busy := htx' ▸ htx
  cases hreply : u.need && u.sendOk with
  | false =>
    rw [dispatchConclude_finish hreply]
    exact rearm_inv (s := { u with parser := .none, srvState := .idle }) s0 hunits hen rfl htx hrx
  | true =>
    rw [dispatchConclude_reply hreply]
    obtain ⟨-, -, ⟨hbuf, hcap, -⟩, -⟩ := h
    have hcfg : u.cfg = s.cfg := hstep.cfg
    exact sendReply_inv (s := { u with parser := .none }) s0 hunits (by rw [hbuf', hcfg]; exact hbuf)
      (by rw [hcap', hcfg]; exact hcap) hen hrx htx

/-- `SRV_DISPATCH` (45_dispatch R287). -/
theorem execSrvDispatch_inv {s : State} (h : s.Inv) : ∃ t, execSrvDispatch s = .next t ∧ t.Inv := by
  by_cases hsrv : s.srvState = .frameReceived
  · obtain ⟨hen, hrx, htx, hwhole⟩ := h.received hsrv
    cases haddr : s.isAddressed with
    | false =>
      rw [execSrvDispatch_skip hsrv haddr]
      obtain ⟨hwf, hparser, hbuf, hrxf, htxok, hvd, hstats, htun, hbnd⟩ := h.unitsOk
      exact rearm_inv (s := { (s.accept .dispatch).bump .wrongId with srvState := .idle }) _
        ⟨hwf, hparser, hbuf, hrxf, htxok, hvd, bump_statsOk s _ hstats, htun, hbnd⟩ hen rfl htx hrx
    | true =>
      obtain ⟨u, hloop, hstep, hpp⟩ := parsing_ends s
      rw [execSrvDispatch_parse hsrv haddr hwhole.ge, hloop]
      exact dispatchConclude_inv _ h hsrv hstep hpp
  · exact ⟨_, execSrvDispatch_wait hsrv, h⟩

/-- `T_READ` (45_dispatch R337). -/
theorem execTRead_inv {s : State} (h : s.Inv) (ch : BitVec 7) (n : Word) : ∃ t, execTRead ch n s = .next t ∧ t.Inv := by
  unfold execTRead
  split
  · exact ⟨_, rfl, (h.accept (.tunnelRead ch)).raise .badTunnel⟩
  · split
    · exact ⟨_, rfl, h⟩
    · obtain ⟨hwf, hset, hrx, hrxf, htx, hsrv, hvd, hstats, htun, hbnd⟩ := h
      have hlen : ((s.rxq ch.toNat).drop n.toNat).length ≤ s.cfg.tunnelRxCap := by
        have := rxq_bound htun ch.toNat
        rw [List.length_drop]
        omega
      exact ⟨_, rfl, hwf, hset, hrx, hrxf, htx, hsrv, hvd, hstats, setRxq_tunnelsOk (s := s) htun hlen, hbnd⟩

/-- `T_WRITE` (45_dispatch R338). -/
theorem execTWrite_inv {s : State} (h : s.Inv) (ch : BitVec 7) (data : List Byte) :
    ∃ t, execTWrite ch data s = .next t ∧ t.Inv := by
  unfold execTWrite
  split
  · exact ⟨_, rfl, (h.accept (.tunnelWrite ch)).raise .badTunnel⟩
  · split
    · exact ⟨_, rfl, h⟩
    · obtain ⟨hwf, hset, hrx, hrxf, htx, hsrv, hvd, hstats, htun, hbnd⟩ := h
      have hlen : (s.txq ch.toNat ++ data.take (min data.length (s.cfg.tunnelTxCap - (s.txq ch.toNat).length))).length ≤
          s.cfg.tunnelTxCap := by
        simp only [List.length_append, List.length_take]
        omega
      exact ⟨_, rfl, hwf, hset, hrx, hrxf, htx, hsrv, hvd, hstats, setTxq_tunnelsOk (s := s) htun hlen, hbnd⟩

/-- The decoder's registers after `VDEC_BYTE` (40_varint R128). -/
theorem setVd_inv {s : State} (h : s.Inv) (d : Byte) : (s.setVd (vdFeed s.cfg s.vdRegs d)).Inv := by
  obtain ⟨hwf, hset, hrx, hrxf, htx, hsrv, hvd, hstats, htun, hbnd⟩ := h
  refine ⟨hwf, hset, hrx, hrxf, htx, hsrv, ?_, hstats, htun, hbnd⟩
  simp only [State.vdOk, State.setVd_vdSt, State.setVd_vdCnt, State.setVd_vdAcc]
  rcases vdFeed_ok s.cfg s.vdRegs d (vdStart_cnt hvd) with ⟨hst, hcnt⟩ | ⟨hst, hcnt⟩ | ⟨hst, hcnt⟩
  · simp [hst, hcnt]
  · simp [hst, hcnt]
  · simp [hst, hcnt]

/-- Every state between two steps has a `STATUS` (10_state R32). -/
theorem State.Inv.statusLegal {s : State} (h : s.Inv) : s.statusLegal = true := by
  obtain ⟨-, ⟨-, hscan, hparse⟩, -, -, -, -, ⟨hempty, hpartial, hdone, hclamped⟩, -⟩ := h
  have hcnt : s.vdCnt ≤ 5 := by
    cases hst : s.vdSt with
    | empty => have := hempty hst; omega
    | partialValue => have := hpartial hst; omega
    | done => have := hdone hst; omega
    | clamped => have := hclamped hst; omega
  simp [State.statusLegal, hscan, hparse, hcnt]

/-- `CSR_READ` (10_state R36). -/
theorem execCsrRead_inv {s : State} (h : s.Inv) (i : Byte) : ∃ t, execCsrRead i s = .next t ∧ t.Inv := by
  unfold execCsrRead
  rw [if_neg (by simp [h.statusLegal])]
  split
  · exact ⟨_, rfl, h⟩
  · exact ⟨_, rfl, (h.accept .host).raise .badCsr⟩

/-- `CSR_WRITE` (10_state R36). -/
theorem execCsrWrite_inv {s : State} (h : s.Inv) (i : Byte) (v : Word) : ∃ t, execCsrWrite i v s = .next t ∧ t.Inv := by
  unfold execCsrWrite
  split
  · exact ⟨_, rfl, h⟩
  · exact ⟨_, rfl, (h.accept .host).raise .badCsr⟩

/-- A subframe appended to the request, or refused (44_subframe_codec R250). -/
theorem rqAppend_inv {s : State} (h : s.Inv) (sub : List Byte) {done : State → State}
    (hdone : ∀ u : State, u.Inv → (done u).Inv) :
    (rqAppend sub done s).Inv := by
  unfold rqAppend
  split
  · exact h.raise .rqOverflow
  · rename_i hfits
    obtain ⟨hwf, hset, hrx, hrxf, htx, hsrv, hvd, hstats, htun, hpp, hreply, -, hrest⟩ := h
    exact hdone _ ⟨hwf, hset, hrx, hrxf, htx, hsrv, hvd, hstats, htun, hpp, hreply,
      by simpa only [List.length_append, not_lt] using hfits, hrest⟩

/-- `RQ_WRITE` (44_subframe_codec R248). -/
theorem execRqWrite_inv {s : State} (h : s.Inv) (reg : Word) (t : VType) (values : List (List Byte)) :
    ∃ u, execRqWrite reg t values s = .next u ∧ u.Inv := by
  unfold execRqWrite
  split
  · exact ⟨_, rfl, (h.accept .host).raise .badCmd⟩
  · exact ⟨_, rfl, rqAppend_inv (h.accept .host) _ fun _ hu => hu⟩

/-- The end of a reply parse (44_subframe_codec R260). -/
theorem replyConclude_inv {s u : State} (h : s.Inv) {payload : List Byte} (hlen : payload.length ≤ s.cfg.maxPayload)
    (hstep : ReplyStep { s with rpMap := [], rpUsed := 0#32, rpPayload := payload, rpPos := 0, parser := .reply } u)
    (hpos : u.rpPos ≤ payload.length) (hused : u.rpUsed = BitVec.ofNat 32 u.rpPos) : (replyConclude u).Inv := by
  have hsorted : rpSorted u.rpMap := hstep.sorted List.Pairwise.nil
  obtain ⟨hwf, ⟨-, hset⟩, hrx, hrxf, htx, hsrv, hvd, hstats, htun, hpp, hreply, hrq, hfault, -, -⟩ := h
  have husedle : u.rpUsed.toNat ≤ s.cfg.maxPayload := by
    rw [hused, BitVec.toNat_ofNat]
    exact (Nat.mod_le _ _).trans (hpos.trans hlen)
  rw [hstep.frame]
  exact ⟨hwf, ⟨rfl, hset⟩, hrx, hrxf, htx, hsrv, hvd, hstats, htun, hpp, hreply, hrq, hfault, hsorted, husedle⟩

/-- `RP_PARSE` (44_subframe_codec R260). -/
theorem execRpParse_inv {s : State} (h : s.Inv) (payload : List Byte) :
    ∃ t, execRpParse payload s = .next t ∧ t.Inv := by
  unfold execRpParse
  split
  · exact ⟨_, rfl, (h.accept .host).raise .badCmd⟩
  · rename_i hlen
    obtain ⟨u, hloop, hstep, -, hpos, hused⟩ := replyLoop_ends payload.length
      (s := { s.accept .host with rpMap := [], rpUsed := 0#32, rpPayload := payload, rpPos := 0, parser := .reply })
      rfl (Nat.zero_le _) rfl (by simp)
    rw [hloop]
    exact ⟨_, rfl, replyConclude_inv (h.accept .host) (not_lt.mp hlen) hstep hpos hused⟩

/-- Every host command keeps the invariant (30_encoding R85). -/
theorem exec_command_inv {i : Instr} {s : State} (hi : i.language = .command) (h : s.Inv) :
    ∃ t, exec i s = .next t ∧ t.Inv := by
  cases i with
  | crcInit => exact ⟨_, rfl, h⟩
  | crcByte d => exact ⟨_, rfl, h⟩
  | crcRead => exact ⟨_, rfl, h⟩
  | crcCheck d => exact ⟨_, rfl, h⟩
  | venc v => exact ⟨_, rfl, h⟩
  | vdecClr =>
    obtain ⟨hwf, hset, hrx, hrxf, htx, hsrv, -, hrest⟩ := h
    exact ⟨_, rfl, hwf, hset, hrx, hrxf, htx, hsrv, ⟨fun _ => ⟨rfl, rfl⟩, nofun, nofun, nofun⟩, hrest⟩
  | vdecByte d => exact ⟨_, rfl, setVd_inv (h.accept .host) d⟩
  | txFrames frames => exact execTxFrames_inv h frames
  | rxArm cap => exact execRxArm_inv h cap
  | rxCancel => exact execRxCancel_inv h
  | srvStart => exact execSrvStart_inv h
  | csrRead i => exact execCsrRead_inv h i
  | csrWrite i v => exact execCsrWrite_inv h i v
  | rqClear =>
    obtain ⟨hwf, hset, hrx, hrxf, htx, hsrv, hvd, hstats, htun, hpp, hreply, -, hrest⟩ := h
    exact ⟨_, rfl, hwf, hset, hrx, hrxf, htx, hsrv, hvd, hstats, htun, hpp, hreply, Nat.zero_le _, hrest⟩
  | rqSetRr b => exact ⟨_, rfl, h⟩
  | rqWrite reg t values => exact execRqWrite_inv h reg t values
  | rqRead reg t n => exact ⟨_, rfl, rqAppend_inv (h.accept .host) _ fun _ hu => hu⟩
  | rqGet => exact ⟨_, rfl, h⟩
  | rpParse payload => exact execRpParse_inv h payload
  | _ => cases hi

/-- Every event keeps the invariant (30_encoding R86). -/
theorem exec_event_inv {i : Instr} {s : State} (hi : i.language = .event) (h : s.Inv) :
    ∃ t, exec i s = .next t ∧ t.Inv := by
  cases i with
  | rxByte d => exact execRxByte_inv h d
  | rxTerr e => exact execRxTerr_inv h e
  | txTake => exact execTxTake_inv h
  | txTerr e => exact execTxTerr_inv h e
  | rxTimeout => exact execRxTimeout_inv h
  | tRead ch n => exact execTRead_inv h ch n
  | tWrite ch data => exact execTWrite_inv h ch data
  | srvDispatch => exact execSrvDispatch_inv h
  | _ => cases hi

/-- From the invariant a command or event ends in it: what else it may answer is excluded. -/
theorem inv_of_exec {i : Instr} {s t : State} (hi : i.language = .command ∨ i.language = .event) (h : s.Inv)
    (ht : exec i s = .next t) : t.Inv := by
  obtain ⟨u, hu, hinv⟩ := hi.elim (exec_command_inv · h) (exec_event_inv · h)
  rw [ht] at hu
  cases hu
  exact hinv

/-- Settles O16: by the kind of step, with one rule per command and event. -/
theorem invStep : Obligations.InvStep := by
  intro s t h hstep
  cases step_cases h.settled hstep with
  | wait next => exact next ▸ h
  | reset turn next => exact next ▸ resetBlock_inv h.1
  | badCommand turn next => exact next ▸ (h.accept .host).raise .badCmd
  | command i turn lang next => exact inv_of_exec (.inl lang) h next
  | event p i turn notHost port next => exact inv_of_exec (portOf_language port) h next

end Sys2Proof.Machine
end

section
/-! Which fields each kind of step may change (10_state R22, R30, R37 to R39, R41; 70_reset_and_hazards R398): the framer's,
the host units', the tunnels', or what a dispatch may change. Obligations O19 and O21 are read off these frames. -/

namespace Sys2Proof.Machine

/-- What the framer and the dispatch unit's cycle may change: the receive and transmit registers, the cycle's state, the
counters, `FAULT`, and the outputs and turns. -/
structure FramerStep (s t : State) : Prop where
  frame : t = { s with
    rxBuf := t.rxBuf, rxState := t.rxState, rxCap := t.rxCap, rxOwner := t.rxOwner, rxfSrc := t.rxfSrc, rxfRr := t.rxfRr
    rxfDst := t.rxfDst, rxfLen := t.rxfLen, rxfPayload := t.rxfPayload, rxfTrunc := t.rxfTrunc, txState := t.txState
    txBuf := t.txBuf, txPos := t.txPos, txOwner := t.txOwner, srvEn := t.srvEn, srvState := t.srvState, stats := t.stats
    fault := t.fault, result := t.result, completion := t.completion, offers := t.offers, sched := t.sched }

/-- What a command of the host's own units may change: the CRC unit, the varint unit, `NODE_ID`, the request builder,
the reply parser, `FAULT`, and the outputs and turns. -/
structure HostUnitStep (s t : State) : Prop where
  frame : t = { s with
    crcReg := t.crcReg, vdAcc := t.vdAcc, vdCnt := t.vdCnt, vdSt := t.vdSt, nodeId := t.nodeId, rqBuf := t.rqBuf
    rqRr := t.rqRr, rpMap := t.rpMap, rpUsed := t.rpUsed, parser := t.parser, rpPayload := t.rpPayload, rpPos := t.rpPos
    fault := t.fault, result := t.result, completion := t.completion, offers := t.offers, sched := t.sched }

/-- What an event of a tunnel user's may change: the FIFOs, `FAULT`, and the outputs and turns. -/
structure TunnelStep (s t : State) : Prop where
  frame : t = { s with
    tunnels := t.tunnels, fault := t.fault, result := t.result, completion := t.completion, offers := t.offers
    sched := t.sched }

/-- The host's units are as they were (10_state R22, R23, R30, R38, R39). -/
abbrev HostUnitsKept (s t : State) : Prop :=
  t.crcReg = s.crcReg ∧ t.vdAcc = s.vdAcc ∧ t.vdCnt = s.vdCnt ∧ t.vdSt = s.vdSt ∧ t.nodeId = s.nodeId ∧
    t.rqBuf = s.rqBuf ∧ t.rqRr = s.rqRr ∧ t.rpMap = s.rpMap ∧ t.rpUsed = s.rpUsed

theorem FramerStep.trans {s t u : State} (h : FramerStep s t) (k : FramerStep t u) : FramerStep s u :=
  ⟨by rw [k.frame, h.frame]⟩

theorem FramerStep.hostUnits {s t : State} (h : FramerStep s t) : HostUnitsKept s t := by
  rw [h.frame]
  exact ⟨rfl, rfl, rfl, rfl, rfl, rfl, rfl, rfl, rfl⟩

theorem FramerStep.outside {s t : State} (h : FramerStep s t) :
    t.cfg = s.cfg ∧ t.tunnels = s.tunnels ∧ t.storeLog = s.storeLog := by
  rw [h.frame]
  exact ⟨rfl, rfl, rfl⟩

theorem HostUnitStep.outside {s t : State} (h : HostUnitStep s t) :
    t.cfg = s.cfg ∧ t.tunnels = s.tunnels ∧ t.storeLog = s.storeLog := by
  rw [h.frame]
  exact ⟨rfl, rfl, rfl⟩

theorem TunnelStep.hostUnits {s t : State} (h : TunnelStep s t) : HostUnitsKept s t := by
  rw [h.frame]
  exact ⟨rfl, rfl, rfl, rfl, rfl, rfl, rfl, rfl, rfl⟩

theorem TunnelStep.store {s t : State} (h : TunnelStep s t) : t.cfg = s.cfg ∧ t.storeLog = s.storeLog := by
  rw [h.frame]
  exact ⟨rfl, rfl⟩

theorem DispatchStep.hostUnits {s t : State} (h : DispatchStep s t) : HostUnitsKept s t := by
  rw [h.frame]
  exact ⟨rfl, rfl, rfl, rfl, rfl, rfl, rfl, rfl, rfl⟩

/-- An agent that waits changes only the outputs and turns. -/
theorem FramerStep.wait (s : State) : FramerStep s s.wait := ⟨rfl⟩

/-- A taken turn that raises a fault. -/
theorem FramerStep.raised (s : State) (p : Port) (f : FaultBit) : FramerStep s ((s.accept p).raise f) := ⟨rfl⟩

theorem HostUnitStep.raised (s : State) (p : Port) (f : FaultBit) : HostUnitStep s ((s.accept p).raise f) := ⟨rfl⟩

/-! ### The framer's operations -/

/-- A delivery stays in the framer (43_frame_sync R189). -/
theorem deliver_framer (src : BitVec 7) (rr : Bool) (dst : Byte) (len : Word) (payload : List Byte) (total : Nat)
    (s : State) : FramerStep s (deliver src rr dst len payload total s) := by
  cases howner : s.rxOwner with
  | host =>
    rw [deliver_host howner]
    exact ⟨rfl⟩
  | server =>
    rw [deliver_server howner]
    exact ⟨rfl⟩

/-- A scan stays in the framer (43_frame_sync R181 to R189). -/
theorem scan_framer {s t : State} (hrx : s.rxState = .awaitFrame) (h : scan s = .next t) : FramerStep s t := by
  obtain ⟨k, b, -, -, -, ⟨-, hwait⟩ | ⟨src, rr, dst, len, payload, crc, rest, -, -, hdeliver⟩⟩ := scan_cases hrx
  · rw [hwait] at h
    cases h
    exact ⟨rfl⟩
  · rw [hdeliver] at h
    split at h
    · cases h
    · cases h
      exact FramerStep.trans ⟨rfl⟩ (deliver_framer ..)

/-- Arming a read stays in the framer, or discards the step's other writes (43_frame_sync R190, R194). -/
theorem arm_framer {s0 s t : State} {cap : Nat} {owner : Owner} (h : arm s0 cap owner s = .next t) :
    FramerStep s0 t ∨ FramerStep s t := by
  by_cases hrx : s.rxState = .idle
  · rw [arm, if_neg (not_not.mpr hrx)] at h
    exact .inr (FramerStep.trans ⟨rfl⟩ (scan_framer rfl h))
  · rw [arm_pending hrx] at h
    cases h
    exact .inl ⟨rfl⟩

/-- The end of a transmission likewise (42_frame_codec R167, R168). -/
theorem completeTx_framer {s0 s t : State} {owner : Owner} {st : Status} {sent : Nat}
    (h : completeTx s0 owner st sent s = .next t) : FramerStep s0 t ∨ FramerStep s t := by
  cases owner with
  | host =>
    cases h
    exact .inr ⟨rfl⟩
  | server =>
    obtain ⟨u, hu, heq⟩ := completeTx_server s0 st sent s
    rw [heq] at h
    have hstart : FramerStep s { u with srvState := .idle } := by
      rcases hu with rfl | rfl
      · exact ⟨rfl⟩
      · exact ⟨rfl⟩
    exact (arm_framer h).imp_right hstart.trans

/-- The start of a transmission likewise (42_frame_codec R165). -/
theorem startTx_framer {s0 s t : State} {frames : List Frame} {owner : Owner}
    (h : startTx s0 frames owner s = .next t) : FramerStep s0 t ∨ FramerStep s t := by
  cases hfits : txOversize s.cfg frames with
  | true =>
    cases owner with
    | host =>
      rw [startTx_oversize_host s0 hfits] at h
      cases h
      exact .inr ⟨rfl⟩
    | server =>
      rw [startTx_oversize_server s0 hfits] at h
      cases h
  | false =>
    by_cases hbytes : frames.flatMap (encodeFrame s.cfg) = []
    · rw [startTx_empty s0 owner hfits hbytes] at h
      exact (completeTx_framer h).imp_right (FramerStep.trans ⟨rfl⟩)
    · rw [startTx_busy s0 owner hfits hbytes] at h
      cases h
      exact .inr ⟨rfl⟩

/-- The end of a dispatch likewise (45_dispatch R287, R293). -/
theorem dispatchConclude_framer {s0 s t : State} (h : dispatchConclude s0 s = .next t) :
    FramerStep s0 t ∨ FramerStep { s with parser := .none } t := by
  cases hreply : s.need && s.sendOk with
  | false =>
    rw [dispatchConclude_finish hreply] at h
    exact (arm_framer h).imp_right (FramerStep.trans ⟨rfl⟩)
  | true =>
    rw [dispatchConclude_reply hreply, sendReply] at h
    split at h
    · cases h
    · exact (startTx_framer h).imp_right (FramerStep.trans ⟨rfl⟩)

/-! ### The framer's commands and events -/

theorem execTxFrames_framer {frames : List Frame} {s t : State} (h : execTxFrames frames s = .next t) :
    FramerStep s t := by
  unfold execTxFrames at h
  dsimp only at h
  split at h
  · cases h
    exact .raised ..
  · split at h
    · cases h
      exact .raised ..
    · exact (startTx_framer h).elim (FramerStep.trans ⟨rfl⟩) (FramerStep.trans ⟨rfl⟩)

theorem execTxTake_framer {s t : State} (h : execTxTake s = .next t) : FramerStep s t := by
  unfold execTxTake at h
  dsimp only at h
  split at h
  · cases h
    exact .wait s
  · split at h
    · cases h
    · split at h
      · exact (completeTx_framer h).elim (FramerStep.trans ⟨rfl⟩) (FramerStep.trans ⟨rfl⟩)
      · cases h
        exact ⟨rfl⟩

theorem execTxTerr_framer {e : Word} {s t : State} (h : execTxTerr e s = .next t) : FramerStep s t := by
  unfold execTxTerr at h
  dsimp only at h
  split at h
  · cases h
    exact .wait s
  · exact (completeTx_framer h).elim (FramerStep.trans ⟨rfl⟩) (FramerStep.trans ⟨rfl⟩)

theorem execRxArm_framer {cap : Word} {s t : State} (h : execRxArm cap s = .next t) : FramerStep s t := by
  unfold execRxArm at h
  dsimp only at h
  split at h
  · cases h
    exact .raised ..
  · split at h
    · cases h
      exact .raised ..
    · exact (arm_framer h).elim (FramerStep.trans ⟨rfl⟩) (FramerStep.trans ⟨rfl⟩)

theorem execRxCancel_framer {s t : State} (h : execRxCancel s = .next t) : FramerStep s t := by
  unfold execRxCancel at h
  dsimp only at h
  split at h
  · cases h
    exact .raised ..
  · split at h
    · cases h
      exact ⟨rfl⟩
    · split at h
      · cases h
      · cases h
        exact ⟨rfl⟩

theorem execRxByte_framer {d : Byte} {s t : State} (h : execRxByte d s = .next t) : FramerStep s t := by
  unfold execRxByte at h
  split at h
  · cases h
    exact .wait s
  · split at h
    · cases h
    · exact FramerStep.trans ⟨rfl⟩ (scan_framer rfl h)

theorem execRxTerr_framer {e : Word} {s t : State} (h : execRxTerr e s = .next t) : FramerStep s t := by
  unfold execRxTerr at h
  dsimp only at h
  split at h
  · cases h
    exact .wait s
  · split at h
    · cases h
      exact ⟨rfl⟩
    · exact (arm_framer h).elim (FramerStep.trans ⟨rfl⟩) (FramerStep.trans ⟨rfl⟩)

theorem execRxTimeout_framer {s t : State} (h : execRxTimeout s = .next t) : FramerStep s t := by
  unfold execRxTimeout at h
  split at h
  · cases h
    exact .wait s
  · cases h
    exact ⟨rfl⟩

theorem execSrvStart_framer {s t : State} (h : execSrvStart s = .next t) : FramerStep s t := by
  unfold execSrvStart at h
  dsimp only at h
  split at h
  · cases h
    exact .raised ..
  · split at h
    · cases h
      exact .raised ..
    · split at h
      · cases h
        exact .raised ..
      · exact (arm_framer h).elim (FramerStep.trans ⟨rfl⟩) (FramerStep.trans ⟨rfl⟩)

/-! ### The host units' commands -/

theorem execCsrRead_hostUnit {i : Byte} {s t : State} (h : execCsrRead i s = .next t) : HostUnitStep s t := by
  unfold execCsrRead at h
  split at h
  · cases h
  · split at h
    · cases h
      exact ⟨rfl⟩
    · cases h
      exact .raised ..

theorem execCsrWrite_hostUnit {i : Byte} {v : Word} {s t : State} (h : execCsrWrite i v s = .next t) :
    HostUnitStep s t := by
  unfold execCsrWrite at h
  split at h
  · cases h
    exact ⟨rfl⟩
  · cases h
    exact .raised ..

theorem execRqWrite_hostUnit {reg : Word} {ty : VType} {values : List (List Byte)} {s t : State}
    (h : execRqWrite reg ty values s = .next t) : HostUnitStep s t := by
  unfold execRqWrite rqAppend at h
  split at h
  · cases h
    exact .raised ..
  · cases h
    split
    · exact .raised ..
    · exact ⟨rfl⟩

theorem execRqRead_hostUnit {reg n : Word} {ty : VType} {s t : State} (h : execRqRead reg ty n s = .next t) :
    HostUnitStep s t := by
  unfold execRqRead rqAppend at h
  cases h
  split
  · exact .raised ..
  · exact ⟨rfl⟩

theorem execRpParse_hostUnit {payload : List Byte} {s t : State} (h : execRpParse payload s = .next t) :
    HostUnitStep s t := by
  unfold execRpParse at h
  split at h
  · cases h
    exact .raised ..
  · obtain ⟨u, hloop, hstep, -⟩ := replyLoop_ends payload.length
      (s := { s.accept .host with rpMap := [], rpUsed := 0#32, rpPayload := payload, rpPos := 0, parser := .reply })
      rfl (Nat.zero_le _) rfl (by simp)
    rw [hloop] at h
    cases h
    rw [hstep.frame]
    exact ⟨rfl⟩

/-! ### Commands and events -/

/-- EVERYTHING A HOST COMMAND CAN CHANGE: the framer, or the host's own units (30_encoding R85). -/
theorem command_frame {i : Instr} {s t : State} (hi : i.language = .command) (h : exec i s = .next t) :
    FramerStep s t ∨ HostUnitStep s t := by
  cases i with
  | crcInit => cases h; exact .inr ⟨rfl⟩
  | crcByte d => cases h; exact .inr ⟨rfl⟩
  | crcRead => cases h; exact .inr ⟨rfl⟩
  | crcCheck d => cases h; exact .inr ⟨rfl⟩
  | venc v => cases h; exact .inr ⟨rfl⟩
  | vdecClr => cases h; exact .inr ⟨rfl⟩
  | vdecByte d => cases h; exact .inr ⟨rfl⟩
  | txFrames frames => exact .inl (execTxFrames_framer h)
  | rxArm cap => exact .inl (execRxArm_framer h)
  | rxCancel => exact .inl (execRxCancel_framer h)
  | srvStart => exact .inl (execSrvStart_framer h)
  | csrRead i => exact .inr (execCsrRead_hostUnit h)
  | csrWrite i v => exact .inr (execCsrWrite_hostUnit h)
  | rqClear => cases h; exact .inr ⟨rfl⟩
  | rqSetRr b => cases h; exact .inr ⟨rfl⟩
  | rqWrite reg ty values => exact .inr (execRqWrite_hostUnit h)
  | rqRead reg ty n => exact .inr (execRqRead_hostUnit h)
  | rqGet => cases h; exact .inr ⟨rfl⟩
  | rpParse payload => exact .inr (execRpParse_hostUnit h)
  | _ => cases hi

theorem execTRead_tunnel {ch : BitVec 7} {n : Word} {s t : State} (h : execTRead ch n s = .next t) :
    TunnelStep s t := by
  unfold execTRead at h
  split at h
  · cases h
    exact ⟨rfl⟩
  · split at h
    · cases h
      exact ⟨rfl⟩
    · cases h
      exact ⟨rfl⟩

theorem execTWrite_tunnel {ch : BitVec 7} {data : List Byte} {s t : State} (h : execTWrite ch data s = .next t) :
    TunnelStep s t := by
  unfold execTWrite at h
  split at h
  · cases h
    exact ⟨rfl⟩
  · split at h
    · cases h
      exact ⟨rfl⟩
    · cases h
      exact ⟨rfl⟩

/-- The address check of 45_dispatch R286 in the words of the rule. -/
theorem isAddressed_iff {s : State} : s.isAddressed = true ↔ s.rxfDst = s.nodeId &&& 0x7F#8 ∨ s.rxfDst = 0x7F#8 := by
  have hmask : s.nodeAddr.setWidth 8 = s.nodeId &&& 0x7F#8 := by
    apply BitVec.eq_of_toNat_eq
    simp only [State.nodeAddr, BitVec.toNat_setWidth, BitVec.toNat_and]
    have hmod : s.nodeId.toNat &&& 127 = s.nodeId.toNat % 2 ^ 7 := Nat.and_two_pow_sub_one_eq_mod _ 7
    rw [show (0x7F#8).toNat = 127 from rfl, hmod]
    omega
  simp [State.isAddressed, State.isBroadcast, hmask]

/-- What `SRV_DISPATCH` can change (45_dispatch R286, R287): the framer; or, on a frame addressed to the block, what its
parse changed and then the framer. -/
theorem execSrvDispatch_frame {s t : State} (h : execSrvDispatch s = .next t) :
    FramerStep s t ∨
      (s.srvState = .frameReceived ∧ s.isAddressed = true ∧
        ∃ u, DispatchStep s.parsing u ∧ FramerStep { u with parser := .none } t) := by
  by_cases hsrv : s.srvState = .frameReceived
  · cases haddr : s.isAddressed with
    | false =>
      rw [execSrvDispatch_skip hsrv haddr] at h
      exact .inl ((arm_framer h).elim (FramerStep.trans ⟨rfl⟩) (FramerStep.trans ⟨rfl⟩))
    | true =>
      by_cases hlen : s.rxfPayload.length < s.rxfLen.toNat
      · rw [execSrvDispatch_missing hsrv haddr hlen] at h
        cases h
      · obtain ⟨u, hloop, hstep, -⟩ := parsing_ends s
        rw [execSrvDispatch_parse hsrv haddr (not_lt.mp hlen), hloop] at h
        rcases dispatchConclude_framer h with hdiscard | hframer
        · exact .inl (FramerStep.trans ⟨rfl⟩ hdiscard)
        · exact .inr ⟨hsrv, rfl, u, hstep, hframer⟩
  · rw [execSrvDispatch_wait hsrv] at h
    cases h
    exact .inl (.wait s)

/-- EVERYTHING AN EVENT CAN CHANGE: the framer, the tunnels, or what a dispatch changes (30_encoding R86). -/
theorem event_frame {i : Instr} {s t : State} (hi : i.language = .event) (h : exec i s = .next t) :
    FramerStep s t ∨ TunnelStep s t ∨
      (i = .srvDispatch ∧ s.srvState = .frameReceived ∧ s.isAddressed = true ∧
        ∃ u, DispatchStep s.parsing u ∧ FramerStep { u with parser := .none } t) := by
  cases i with
  | rxByte d => exact .inl (execRxByte_framer h)
  | rxTerr e => exact .inl (execRxTerr_framer h)
  | txTake => exact .inl (execTxTake_framer h)
  | txTerr e => exact .inl (execTxTerr_framer h)
  | rxTimeout => exact .inl (execRxTimeout_framer h)
  | tRead ch n => exact .inr (.inl (execTRead_tunnel h))
  | tWrite ch data => exact .inr (.inl (execTWrite_tunnel h))
  | srvDispatch => exact (execSrvDispatch_frame h).imp_right fun hd => .inr ⟨rfl, hd⟩
  | _ => cases hi

/-- Commands are offered at the host's port (30_encoding R85). -/
theorem portOf_command {i : Instr} (hi : i.language = .command) : portOf i = some .host := by
  cases i <;> first | rfl | cases hi

/-- An instruction with a port other than the host's is an event. -/
theorem event_of_portOf {i : Instr} {p : Port} (hp : p ≠ .host) (hport : portOf i = some p) : i.language = .event := by
  rcases portOf_language hport with hi | hi
  · rw [portOf_command hi] at hport
    exact absurd (Option.some.inj hport).symm hp
  · exact hi

/-! ### The obligations -/

/-- Settles O19: by the kind of step; only the parse of a frame addressed to the block adds store calls. -/
theorem storeCallsOnlyInDispatch : Obligations.StoreCallsOnlyInDispatch := by
  intro s t hs hstep
  have kept : t.cfg = s.cfg → t.storeLog = s.storeLog → t.cfg = s.cfg ∧ s.storeLog <+: t.storeLog ∧
      (t.storeLog ≠ s.storeLog → s.sched.head? = some (.take .dispatch) ∧ s.srvState = .frameReceived ∧
        (s.rxfDst = s.nodeId &&& 0x7F#8 ∨ s.rxfDst = 0x7F#8)) :=
    fun hcfg hlog => ⟨hcfg, by rw [hlog], fun hne => absurd hlog hne⟩
  cases step_cases hs hstep with
  | wait next => exact kept (next ▸ rfl) (next ▸ rfl)
  | reset turn next => exact kept (next ▸ rfl) (next ▸ rfl)
  | badCommand turn next => exact kept (next ▸ rfl) (next ▸ rfl)
  | command i turn lang next =>
    obtain ⟨hcfg, -, hlog⟩ := (command_frame lang next).elim FramerStep.outside HostUnitStep.outside
    exact kept hcfg hlog
  | event p i turn notHost port next =>
    rcases event_frame (event_of_portOf notHost port) next with hf | ht | ⟨rfl, hsrv, haddr, u, hd, hf⟩
    · obtain ⟨hcfg, -, hlog⟩ := hf.outside
      exact kept hcfg hlog
    · exact kept ht.store.1 ht.store.2
    · cases port
      obtain ⟨hcfg, -, hlog⟩ := hf.outside
      exact ⟨hcfg.trans hd.cfg, hlog ▸ hd.log, fun _ => ⟨turn, hsrv, isAddressed_iff.mp haddr⟩⟩

/-- Settles O21: by the kind of step, from what each kind may change. -/
theorem hostUnitsPrivate : Obligations.HostUnitsPrivate := by
  intro s t hs hstep hreset
  cases step_cases hs hstep with
  | wait next =>
    subst next
    exact ⟨fun _ => (FramerStep.wait s).hostUnits, fun _ => ⟨rfl, rfl⟩⟩
  | reset turn next => exact absurd turn hreset
  | badCommand turn next =>
    subst next
    exact ⟨fun hne => absurd turn hne, fun _ => ⟨rfl, rfl⟩⟩
  | command i turn lang next =>
    obtain ⟨-, htunnels, hlog⟩ := (command_frame lang next).elim FramerStep.outside HostUnitStep.outside
    exact ⟨fun hne => absurd turn hne, fun _ => ⟨htunnels, hlog⟩⟩
  | event p i turn notHost port next =>
    refine ⟨fun _ => ?units, fun hhost => ?host⟩
    case host =>
      rw [turn] at hhost
      cases hhost
      exact absurd rfl notHost
    case units =>
      rcases event_frame (event_of_portOf notHost port) next with hf | ht | ⟨-, -, -, u, hd, hf⟩
      · exact hf.hostUnits
      · exact ht.hostUnits
      · have hparse : HostUnitsKept s { u with parser := .none } := hd.hostUnits
        rw [hf.frame]
        exact hparse

end Sys2Proof.Machine
end

section
/-! The CSRs (10_state R30 to R36) and the tunnel FIFOs (10_state R37): reads and writes at every index, the fields of
`STATUS`, and what a FIFO reads after a write. -/

namespace Sys2Proof.Machine

/-! ### `CSR_READ` and `CSR_WRITE` -/

/-- A mapped CSR is returned; only `STATUS` may have no value (93_implementation_defined U7). -/
theorem execCsrRead_mapped {s : State} {i : Byte} {v : Word} (hlegal : i = 0x01#8 → s.statusLegal = true)
    (h : s.csr i = some v) : execCsrRead i s = .next { s.accept .host with result := .csr v } := by
  rw [execCsrRead, if_neg (by rintro ⟨hi, hs⟩; simp [hlegal hi] at hs)]
  simp only [h]

/-- Reading an unmapped CSR raises the fault (10_state R36). -/
theorem execCsrRead_unmapped {s : State} {i : Byte} (hi : i ≠ 0x01#8) (h : s.csr i = none) :
    execCsrRead i s = .next ((s.accept .host).raise .badCsr) := by
  rw [execCsrRead, if_neg (by rintro ⟨hi', -⟩; exact hi hi')]
  simp only [h]

/-- Reading `STATUS` where its fields have no encoding is a modelling error (93_implementation_defined U7). -/
theorem execCsrRead_illegal {s : State} (h : s.statusLegal = false) : execCsrRead 0x01#8 s = .fault .statusEncoding :=
  if_pos ⟨rfl, h⟩

/-- Writing any CSR but `NODE_ID` raises the fault (10_state R36). -/
theorem execCsrWrite_other {s : State} {i : Byte} (v : Word) (hi : i ≠ 0x00#8) :
    execCsrWrite i v s = .next ((s.accept .host).raise .badCsr) := if_neg hi

/-- The states in which the host can read `STATUS` (10_state R32). -/
theorem statusLegal_iff {s : State} :
    s.statusLegal = true ↔ s.srvState ≠ .dispatching ∧ s.rxState ≠ .awaitFrame ∧ s.vdCnt ≤ 5 := by
  simp [State.statusLegal, and_assoc]

/-- The unmapped indices (10_state R35). -/
theorem csr_unmapped {s : State} {i : Byte} (h : (0x04 ≤ i.toNat ∧ i.toNat ≤ 0x0F) ∨ 0x17 ≤ i.toNat) :
    s.csr i = none := by
  unfold State.csr
  split <;> first | rfl | omega

/-- A counter reads back as its value: it is narrower than a CSR (10_state R31, R35). -/
theorem counter_toNat {n w : Nat} (hn : n < 2 ^ w) (hw : w ≤ 32) : (BitVec.ofNat 32 n).toNat = n := by
  rw [BitVec.toNat_ofNat]
  exact Nat.mod_eq_of_lt (hn.trans_le (Nat.pow_le_pow_right (by decide) hw))

/-- Settles O32: every index is one of the eleven mapped ones or unmapped. -/
theorem csrAccess : Obligations.CsrAccess := by
  intro s
  refine ⟨execCsrRead_mapped nofun rfl, fun hsrv hrx hcnt => ?status, execCsrRead_mapped nofun rfl,
    execCsrRead_mapped nofun rfl, fun hstats hw => ?counters, fun i hi => ?unmapped, fun v => ?nodeId,
    fun i v hi => execCsrWrite_other v hi⟩
  case status => exact execCsrRead_mapped (fun _ => statusLegal_iff.mpr ⟨hsrv, hrx, hcnt⟩) rfl
  case counters =>
    obtain ⟨hwrong, hoverrun, hunknown, hmissing, hmalformed, hwrite, hchecksum⟩ := hstats
    simp only [List.forall_mem_cons, List.not_mem_nil, false_imp_iff, implies_true, and_true]
    exact ⟨⟨_, execCsrRead_mapped nofun rfl, counter_toNat hwrong hw⟩,
      ⟨_, execCsrRead_mapped nofun rfl, counter_toNat hoverrun hw⟩,
      ⟨_, execCsrRead_mapped nofun rfl, counter_toNat hunknown hw⟩,
      ⟨_, execCsrRead_mapped nofun rfl, counter_toNat hmissing hw⟩,
      ⟨_, execCsrRead_mapped nofun rfl, counter_toNat hmalformed hw⟩,
      ⟨_, execCsrRead_mapped nofun rfl, counter_toNat hwrite hw⟩,
      ⟨_, execCsrRead_mapped nofun rfl, counter_toNat hchecksum hw⟩⟩
  case unmapped =>
    have hne : i ≠ 0x01#8 := by
      rintro rfl
      simp at hi
    exact execCsrRead_unmapped hne (csr_unmapped hi)
  case nodeId =>
    have hlow : v.extractLsb' 0 8 = v.setWidth 8 := BitVec.eq_of_toNat_eq (by simp)
    rw [hlow]
    rfl

/-! ### The fields of `STATUS` -/

/-- A bit of a CSR is a field of one bit. -/
theorem bitAt_eq_fieldAt (b : Bool) (lo : Nat) : bitAt b lo = fieldAt b.toNat lo := by
  cases b <;> simp [bitAt, fieldAt]

/-- A field placed above the bits of a word adds to its value. -/
theorem or_fieldAt_toNat {w : Word} {n lo v : Nat} (hv : w.toNat = v) (hw : v < 2 ^ lo) (hn : n * 2 ^ lo < 2 ^ 32) :
    (w ||| fieldAt n lo).toNat = v + n * 2 ^ lo := by
  subst hv
  have hlt : n < 2 ^ 32 := (Nat.le_mul_of_pos_right n (Nat.two_pow_pos lo)).trans_lt hn
  rw [BitVec.toNat_or, fieldAt, BitVec.toNat_shiftLeft, BitVec.toNat_ofNat, Nat.mod_eq_of_lt hlt, Nat.shiftLeft_eq,
    Nat.mod_eq_of_lt hn, Nat.or_comm, Nat.mul_comm n, ← Nat.two_pow_add_eq_or_of_lt hw, Nat.add_comm]

/-! The codes of the enumerated fields fit their fields, and no two values share one (10_state R32). -/

theorem srvCode_lt (x : SrvState) : x.code < 4 := by cases x <;> decide

theorem rxCode_lt (x : RxState) : x.code < 4 := by cases x <;> decide

theorem vdCode_lt (x : VdStatus) : x.code < 8 := by cases x <;> decide

theorem srvCode_inj {x : SrvState} (y : SrvState) : x.code = y.code ↔ x = y := by
  cases x <;> cases y <;> decide

theorem rxCode_inj {x : RxState} (y : RxState) : x.code = y.code ↔ x = y := by
  cases x <;> cases y <;> decide

theorem vdCode_inj {x : VdStatus} (y : VdStatus) : x.code = y.code ↔ x = y := by
  cases x <;> cases y <;> decide

/-- `STATUS` as a number: each field at its place (10_state R32). -/
theorem statusWord_toNat {s : State} (hcnt : s.vdCnt ≤ 5) :
    s.statusWord.toNat = s.srvEn.toNat + s.srvState.code * 2 ^ 1 + s.rxState.code * 2 ^ 3 +
      (s.txState == .busy).toNat * 2 ^ 5 + s.vdSt.code * 2 ^ 6 + s.vdCnt * 2 ^ 9 + s.rxfTrunc.toNat * 2 ^ 12 := by
  have hen := Bool.toNat_lt s.srvEn
  have hsrv := srvCode_lt s.srvState
  have hrx := rxCode_lt s.rxState
  have htx := Bool.toNat_lt (s.txState == .busy)
  have hvd := vdCode_lt s.vdSt
  have htrunc := Bool.toNat_lt s.rxfTrunc
  have hlowest : (fieldAt s.srvEn.toNat 0).toNat = s.srvEn.toNat := by
    rw [fieldAt, BitVec.shiftLeft_zero, BitVec.toNat_ofNat]
    omega
  simp only [State.statusWord, bitAt_eq_fieldAt]
  refine or_fieldAt_toNat (or_fieldAt_toNat (or_fieldAt_toNat (or_fieldAt_toNat (or_fieldAt_toNat (or_fieldAt_toNat
    hlowest ?_ ?_) ?_ ?_) ?_ ?_) ?_ ?_) ?_ ?_) ?_ ?_ <;> omega

/-- A field of a word is a quotient and remainder of its value. -/
theorem extractLsb'_eq_iff {w : Word} {lo len : Nat} {x : BitVec len} :
    w.extractLsb' lo len = x ↔ w.toNat / 2 ^ lo % 2 ^ len = x.toNat := by
  rw [← BitVec.toNat_inj, BitVec.extractLsb'_toNat, Nat.shiftRight_eq_div_pow]

/-- So is a bit. -/
theorem getLsbD_iff {w : Word} {k : Nat} : w.getLsbD k = true ↔ w.toNat / 2 ^ k % 2 = 1 := by
  rw [← BitVec.testBit_toNat, Nat.testBit_eq_decide_div_mod_eq, decide_eq_true_iff]

/-- The seven fields of a sum of the form of `statusWord_toNat`, each by its place, and nothing above them. -/
theorem statusSum_fields {w en srv rx tx vd cnt trunc : Nat}
    (hw : w = en + srv * 2 ^ 1 + rx * 2 ^ 3 + tx * 2 ^ 5 + vd * 2 ^ 6 + cnt * 2 ^ 9 + trunc * 2 ^ 12) (hen : en < 2)
    (hsrv : srv < 4) (hrx : rx < 4) (htx : tx < 2) (hvd : vd < 8) (hcnt : cnt ≤ 5) (htrunc : trunc < 2) :
    w / 2 ^ 0 % 2 = en ∧ w / 2 ^ 1 % 2 ^ 2 = srv ∧ w / 2 ^ 3 % 2 ^ 2 = rx ∧ w / 2 ^ 5 % 2 = tx ∧
      w / 2 ^ 6 % 2 ^ 3 = vd ∧ w / 2 ^ 9 % 2 ^ 3 = cnt ∧ w / 2 ^ 12 % 2 = trunc ∧ w / 2 ^ 13 % 2 ^ 19 = 0 := by
  omega

/-- `STATUS` is 0 after reset (10_state R32). -/
theorem statusWord_reset (c : Config) : (State.resetWith c).statusWord = 0#32 := by
  simp [State.statusWord, State.resetWith, bitAt, fieldAt, SrvState.code, RxState.code, VdStatus.code]

/-- Settles O31: `STATUS` is the sum of its fields at their places, and each is read off it by division. -/
theorem statusFields : Obligations.StatusFields := by
  refine ⟨statusWord_reset, fun s v => execCsrWrite_other v (by decide), fun s hsrv hrx hcnt =>
    ⟨s.statusWord, execCsrRead_mapped (fun _ => statusLegal_iff.mpr ⟨hsrv, hrx, hcnt⟩) rfl, ?_⟩⟩
  obtain ⟨fen, fsrv, frx, ftx, fvd, fcnt, ftrunc, frest⟩ := statusSum_fields (statusWord_toNat hcnt)
    (Bool.toNat_lt _) (srvCode_lt _) (rxCode_lt _) (Bool.toNat_lt _) (vdCode_lt _) hcnt (Bool.toNat_lt _)
  simp only [extractLsb'_eq_iff, getLsbD_iff, ne_eq, BitVec.extractLsb'_toNat, Nat.shiftRight_eq_div_pow, fen, fsrv, frx,
    ftx, fvd, fcnt, ftrunc, frest]
  exact ⟨Bool.toNat_eq_one, srvCode_inj .idle, srvCode_inj .frameReceived,
    fun h => hsrv ((srvCode_inj .dispatching).mp h), srvCode_inj .replyAssembled, rxCode_inj .idle, rxCode_inj .readingMore, Bool.toNat_eq_one.trans beq_iff_eq,
    vdCode_inj .empty, vdCode_inj .partialValue, vdCode_inj .done, vdCode_inj .clamped, trivial, Bool.toNat_eq_one, rfl⟩

/-! ### The tunnel FIFOs -/

/-- An update of one channel's entry is what is found there. -/
theorem findTunnel_update_same {ts : List Tunnel} {ch : Nat} {f : Tunnel → Tunnel} (hf : ∀ t, (f t).id = t.id)
    (h : ∃ t ∈ ts, t.id.toNat = ch) :
    findTunnel ch (ts.map fun t => if t.id.toNat = ch then f t else t) = f (findTunnel ch ts) := by
  induction ts with
  | nil => simp at h
  | cons t ts ih =>
    by_cases ht : t.id.toNat = ch
    · simp [findTunnel, ht, hf]
    · have hts : ∃ u ∈ ts, u.id.toNat = ch := by simpa [ht] using h
      simp [findTunnel, ht, ih hts]

/-- It is not found at another channel. -/
theorem findTunnel_update_other {ts : List Tunnel} {ch other : Nat} {f : Tunnel → Tunnel} (hf : ∀ t, (f t).id = t.id)
    (hne : other ≠ ch) :
    findTunnel other (ts.map fun t => if t.id.toNat = ch then f t else t) = findTunnel other ts := by
  induction ts with
  | nil => rfl
  | cons t ts ih =>
    by_cases ht : t.id.toNat = ch
    · simp [findTunnel, ht, hf, hne.symm, ih]
    · simp [findTunnel, ht, ih]

/-- Settles O60: a FIFO's update is found at its own channel and nowhere else. -/
theorem tunnelQueues : Obligations.TunnelQueues := by
  intro s ch other q hch
  have hrx := findTunnel_update_same (f := fun t => { t with rxq := q }) (fun _ => rfl) hch
  have htx := findTunnel_update_same (f := fun t => { t with txq := q }) (fun _ => rfl) hch
  have hrxTx := congrArg Tunnel.txq hrx
  have htxRx := congrArg Tunnel.rxq htx
  refine ⟨congrArg Tunnel.rxq hrx, congrArg Tunnel.txq htx, hrxTx, htxRx, fun hne => ?_⟩
  have hrx' := findTunnel_update_other (ts := s.tunnels) (f := fun t => { t with rxq := q }) (fun _ => rfl) hne
  have htx' := findTunnel_update_other (ts := s.tunnels) (f := fun t => { t with txq := q }) (fun _ => rfl) hne
  exact ⟨congrArg Tunnel.rxq hrx', congrArg Tunnel.txq hrx', congrArg Tunnel.rxq htx', congrArg Tunnel.txq htx'⟩

end Sys2Proof.Machine
end

section
/-! The subframe decoder reads back what the encoder writes (30_encoding R89 to R99, 44_subframe_codec R224): fields, then
the layouts' shapes, then every subframe. -/

namespace Sys2Proof

/-! ### Fields -/

/-- The data bits of a varuint byte (40_varint R120). -/
theorem low7_toNat (v : Word) : (low7 v).toNat = v.toNat % 2 ^ 7 := by
  have hmask : v.toNat % 2 ^ 8 &&& 127 = v.toNat % 2 ^ 8 % 2 ^ 7 := Nat.and_two_pow_sub_one_eq_mod _ 7
  rw [low7, BitVec.toNat_and, BitVec.toNat_setWidth, show (0x7F#8).toNat = 127 from rfl, hmask]
  omega

/-- The last byte of a varuint has the continuation bit clear. -/
theorem low7_msb (v : Word) : (low7 v).msb = false := by
  rw [BitVec.msb_eq_false_iff_two_mul_lt, low7_toNat]
  omega

/-- The other bytes have it set, above the same data bits. -/
theorem continued_toNat (v : Word) : (low7 v ||| 0x80#8).toNat = 128 + v.toNat % 2 ^ 7 := by
  have hor : 2 ^ 7 * 1 + v.toNat % 2 ^ 7 = 2 ^ 7 * 1 ||| v.toNat % 2 ^ 7 :=
    Nat.two_pow_add_eq_or_of_lt (Nat.mod_lt _ (by decide)) 1
  rw [BitVec.toNat_or, low7_toNat, Nat.or_comm]
  exact hor.symm

theorem continued_msb (v : Word) : (low7 v ||| 0x80#8).msb = true := by
  rw [BitVec.msb_eq_true_iff_two_mul_ge, continued_toNat]
  omega

/-- What the decoder takes of a byte: its data bits. -/
theorem dataBits_toNat (b : Byte) : ((b &&& 0x7F#8).setWidth 32).toNat = b.toNat % 2 ^ 7 := by
  have hmask : b.toNat &&& 127 = b.toNat % 2 ^ 7 := Nat.and_two_pow_sub_one_eq_mod _ 7
  rw [BitVec.toNat_setWidth, BitVec.toNat_and, show (0x7F#8).toNat = 127 from rfl, hmask]
  omega

/-- The data bits of the last byte are its value. -/
theorem dataBits_last {v : Word} (hv : v.toNat < 2 ^ 7) : (low7 v &&& 0x7F#8).setWidth 32 = v :=
  BitVec.eq_of_toNat_eq (by rw [dataBits_toNat, low7_toNat]; omega)

/-- A value is its low data bits and the rest (40_varint R121). -/
theorem dataBits_or_rest (v : Word) : ((low7 v ||| 0x80#8) &&& 0x7F#8).setWidth 32 ||| (v >>> 7) <<< 7 = v := by
  have hlow : ((low7 v ||| 0x80#8) &&& 0x7F#8).setWidth 32 = BitVec.ofNat 32 (v.toNat % 2 ^ 7) :=
    BitVec.eq_of_toNat_eq (by rw [dataBits_toNat, continued_toNat, BitVec.toNat_ofNat]; omega)
  have hhigh : ((v >>> 7) <<< 7).toNat = 2 ^ 7 * (v.toNat / 2 ^ 7) := by
    rw [BitVec.toNat_shiftLeft, BitVec.toNat_ushiftRight, Nat.shiftRight_eq_div_pow, Nat.shiftLeft_eq]
    omega
  apply BitVec.eq_of_toNat_eq
  rw [hlow, BitVec.toNat_or, hhigh, BitVec.toNat_ofNat, Nat.mod_eq_of_lt (by omega), Nat.or_comm,
    ← Nat.two_pow_add_eq_or_of_lt (Nat.mod_lt _ (by decide)), Nat.div_add_mod]

/-- A fifth byte that completes a 32-bit value does not overflow (40_varint R123). -/
theorem fifth_fits {v : Word} (hv : v.toNat < 2 ^ 4) : (low7 v).extractLsb' 4 3 = 0#3 := by
  apply BitVec.eq_of_toNat_eq
  rw [BitVec.extractLsb'_toNat, low7_toNat, Nat.shiftRight_eq_div_pow, BitVec.toNat_ofNat]
  omega

/-- The decoder's loop on the bytes of a value that fits what is left of a word (40_varint R121, R123). -/
theorem vdecLoop_encVarBytes (c : Config) (n j : Nat) (acc v : Word) (t : List Byte) (hj : j + (n + 1) ≤ 5)
    (hbytes : v.toNat < 2 ^ (7 * (n + 1))) (hword : v.toNat < 2 ^ (32 - 7 * j)) :
    vdecLoop c j acc (encVarBytes (n + 1) v ++ t) = some ⟨acc ||| v <<< (7 * j), j + (n + 1)⟩ := by
  induction n generalizing j acc v with
  | zero =>
    have hlast : ¬(j = 4 ∧ (low7 v).extractLsb' 4 3 ≠ 0#3 ∧ c.fifthOverflow = .clamp) := by
      rintro ⟨rfl, hbits, -⟩
      exact hbits (fifth_fits hword)
    simp only [encVarBytes, List.cons_append, List.nil_append, vdecLoop, low7_msb, if_true, if_neg hlast,
      dataBits_last hbytes]
  | succ n ih =>
    have hne : j ≠ 4 := by omega
    have hrest : (v >>> 7).toNat = v.toNat / 2 ^ 7 := by rw [BitVec.toNat_ushiftRight, Nat.shiftRight_eq_div_pow]
    have hbytes' : (v >>> 7).toNat < 2 ^ (7 * (n + 1)) := by
      rw [hrest, Nat.div_lt_iff_lt_mul (by decide), ← pow_add]
      exact hbytes
    have hword' : (v >>> 7).toNat < 2 ^ (32 - 7 * (j + 1)) := by
      rw [hrest, Nat.div_lt_iff_lt_mul (by decide), ← pow_add]
      exact hword.trans_eq (by congr 1; omega)
    simp only [encVarBytes, List.cons_append, vdecLoop, continued_msb, Bool.true_eq_false, if_false, if_neg hne,
      ih (j + 1) _ _ (by omega) hbytes' hword']
    have hshift : (v >>> 7) <<< (7 * (j + 1)) = ((v >>> 7) <<< 7) <<< (7 * j) := by
      rw [← BitVec.shiftLeft_add, Nat.mul_add_one, Nat.add_comm]
    rw [hshift, BitVec.or_assoc, ← BitVec.shiftLeft_or_distrib, dataBits_or_rest]
    simp only [Option.some.injEq, VarU.mk.injEq, true_and]
    omega

/-- A 16-bit value reads back (20_memory R62). -/
theorem rd16_le16 (v : Half) (t : List Byte) : rd16 (le16 v ++ t) = v := by
  show v.extractLsb' 8 8 ++ v.extractLsb' 0 8 = v
  rw [BitVec.extractLsb'_append_extractLsb'_eq_extractLsb' (by rfl)]
  exact BitVec.extractLsb'_eq_self

/-- A 32-bit value reads back (20_memory R62). -/
theorem rd32_le32 (v : Word) (t : List Byte) : rd32 (le32 v ++ t) = v := by
  show (v.extractLsb' 24 8 ++ v.extractLsb' 16 8) ++ (v.extractLsb' 8 8 ++ v.extractLsb' 0 8) = v
  rw [BitVec.extractLsb'_append_extractLsb'_eq_extractLsb' (by rfl),
    BitVec.extractLsb'_append_extractLsb'_eq_extractLsb' (by rfl),
    BitVec.extractLsb'_append_extractLsb'_eq_extractLsb' (by rfl)]
  exact BitVec.extractLsb'_eq_self

/-- A varuint operand reads back (30_encoding R82, R83). -/
theorem takeVar_bytes (c : Config) {v : VarU} (hv : v.wf) (t : List Byte) : takeVar c (v.bytes ++ t) = some (v, t) := by
  obtain ⟨hpos, hsize, hvalue⟩ := hv
  obtain ⟨n, hn⟩ := Nat.exists_eq_add_of_le' hpos
  have hdec : vdec c (v.bytes ++ t) = some v := by
    rw [vdec, VarU.bytes, hn, vdecLoop_encVarBytes c n 0 0#32 v.value t (by omega) (hn ▸ hvalue) v.value.isLt]
    obtain ⟨value, size⟩ := v
    simp [hn.symm]
  simp [takeVar, hdec]

/-- `rd` reads back from the front of a byte string what `enc` writes in `w` bytes. -/
structure ReadsBack {α : Type} (w : Nat) (rd : List Byte → α) (enc : α → List Byte) : Prop where
  length : ∀ x, (enc x).length = w
  read : ∀ x t, rd (enc x ++ t) = x

theorem readsBack8 : ReadsBack 1 rd8 (fun b => [b]) := ⟨fun _ => rfl, fun _ _ => rfl⟩

theorem readsBack16 : ReadsBack 2 rd16 le16 := ⟨fun _ => rfl, rd16_le16⟩

theorem readsBack32 : ReadsBack 4 rd32 le32 := ⟨fun _ => rfl, rd32_le32⟩

section
variable {α : Type} {w : Nat} {rd : List Byte → α} {enc : α → List Byte} (h : ReadsBack w rd enc)
include h

/-- After a value come the bytes after its field. -/
theorem ReadsBack.drop (x : α) (t : List Byte) : (enc x ++ t).drop w = t := by
  rw [← h.length x, List.drop_left]

/-- A run of values reads back (44_subframe_codec R224). -/
theorem ReadsBack.takeVals (l : List α) (t : List Byte) : takeVals w rd l.length (l.flatMap enc ++ t) = l := by
  induction l with
  | nil => rfl
  | cons x l ih =>
    simp only [List.length_cons, Sys2Proof.takeVals, List.flatMap_cons, List.append_assoc, h.read, h.drop, ih]

theorem ReadsBack.run_length (l : List α) : (l.flatMap enc).length = l.length * w := by
  simp [List.length_flatMap, h.length]

/-! ### Shapes (30_encoding R92 to R99) -/

theorem runN_bytes {mk : VarU → VarU → List α → Instr} {c : Config} {n r : VarU} {l : List α} {s t : List Byte}
    (hwf : n.counts l.length ∧ r.wf) (hs : s = n.bytes ++ (r.bytes ++ (l.flatMap enc ++ t))) :
    runN mk w rd c s = .ok (mk n r l, t) := by
  obtain ⟨⟨hn, hcount⟩, hr⟩ := hwf
  have hdrop : (l.flatMap enc ++ t).drop (l.length * w) = t := by rw [← h.run_length, List.drop_left]
  have hlen : ¬(l.flatMap enc ++ t).length < l.length * w := by
    rw [List.length_append, h.run_length]
    omega
  rw [runN, hs, takeVar_bytes c hn]
  simp only [takeVar_bytes c hr, hcount, if_neg hlen, h.takeVals, hdrop]

theorem run1_bytes {mk : VarU → α → Instr} {c : Config} {r : VarU} {x : α} {s t : List Byte} (hr : r.wf)
    (hs : s = r.bytes ++ (enc x ++ t)) : run1 mk w rd c s = .ok (mk r x, t) := by
  have hlen : ¬(enc x ++ t).length < w := by
    rw [List.length_append, h.length]
    omega
  rw [run1, hs, takeVar_bytes c hr]
  simp only [if_neg hlen, h.read, h.drop]

theorem run2_bytes {mk : VarU → α → α → Instr} {c : Config} {r : VarU} {x y : α} {s t : List Byte} (hr : r.wf)
    (hs : s = r.bytes ++ (enc x ++ (enc y ++ t))) : run2 mk w rd c s = .ok (mk r x y, t) := by
  have hlen : ¬(enc x ++ (enc y ++ t)).length < 2 * w := by
    simp only [List.length_append, h.length]
    omega
  rw [run2, hs, takeVar_bytes c hr]
  simp only [if_neg hlen]
  simp only [two_mul, ← List.drop_drop, h.read, h.drop]

theorem run3_bytes {mk : VarU → α → α → α → Instr} {c : Config} {r : VarU} {x y z : α} {s t : List Byte} (hr : r.wf)
    (hs : s = r.bytes ++ (enc x ++ (enc y ++ (enc z ++ t)))) : run3 mk w rd c s = .ok (mk r x y z, t) := by
  have hlen : ¬(enc x ++ (enc y ++ (enc z ++ t))).length < 3 * w := by
    simp only [List.length_append, h.length]
    omega
  rw [run3, hs, takeVar_bytes c hr]
  simp only [if_neg hlen]
  simp only [two_mul, show 3 * w = w + w + w by omega, ← List.drop_drop, h.read, h.drop]

end

theorem oneVar_bytes {mk : VarU → Instr} {c : Config} {r : VarU} {s t : List Byte} (hr : r.wf) (hs : s = r.bytes ++ t) :
    oneVar mk c s = .ok (mk r, t) := by
  rw [oneVar, hs, takeVar_bytes c hr]

theorem twoVars_bytes {mk : VarU → VarU → Instr} {c : Config} {n r : VarU} {s t : List Byte} (hwf : n.wf ∧ r.wf)
    (hs : s = n.bytes ++ (r.bytes ++ t)) : twoVars mk c s = .ok (mk n r, t) := by
  rw [twoVars, hs, takeVar_bytes c hwf.1]
  exact oneVar_bytes hwf.2 rfl

theorem dataForm_bytes {mk : VarU → VarU → List Byte → Instr} {c : Config} {ch len : VarU} {d s t : List Byte}
    (hwf : ch.wf ∧ len.counts d.length) (hs : s = ch.bytes ++ (len.bytes ++ (d ++ t))) :
    dataForm mk c s = .ok (mk ch len d, t) := by
  obtain ⟨hch, hlen, hcount⟩ := hwf
  have hroom : ¬(d ++ t).length < d.length := by simp
  rw [dataForm, hs, takeVar_bytes c hch]
  simp only [takeVar_bytes c hlen, hcount, if_neg hroom, List.take_left, List.drop_left]

/-! ### Subframes -/

/-- A well-formed subframe reads back, whatever comes after it (30_encoding R101). -/
theorem decodeSub_encode {c : Config} {i : Instr} (hi : i.language = .subframe) (hwf : i.wf c) (rest : List Byte) :
    decodeSub c (encode i ++ rest) = .ok (i, rest) := by
  cases i with
  | writeI8N n r vals | replyI8N n r vals => exact runN_bytes readsBack8 hwf (by simp)
  | writeI16N n r vals | replyI16N n r vals => exact runN_bytes readsBack16 hwf (by simp)
  | writeI32N n r vals | replyI32N n r vals => exact runN_bytes readsBack32 hwf (by simp)
  | writeF32N n r vals | replyF32N n r vals => exact runN_bytes readsBack32 hwf (by simp)
  | writeI8_1 r v0 | replyI8_1 r v0 => exact run1_bytes readsBack8 hwf (by simp)
  | writeI16_1 r v0 | replyI16_1 r v0 => exact run1_bytes readsBack16 hwf (by simp)
  | writeI32_1 r v0 | replyI32_1 r v0 => exact run1_bytes readsBack32 hwf (by simp)
  | writeF32_1 r v0 | replyF32_1 r v0 => exact run1_bytes readsBack32 hwf (by simp)
  | writeI8_2 r v0 v1 | replyI8_2 r v0 v1 => exact run2_bytes readsBack8 hwf (by simp)
  | writeI16_2 r v0 v1 | replyI16_2 r v0 v1 => exact run2_bytes readsBack16 hwf (by simp)
  | writeI32_2 r v0 v1 | replyI32_2 r v0 v1 => exact run2_bytes readsBack32 hwf (by simp)
  | writeF32_2 r v0 v1 | replyF32_2 r v0 v1 => exact run2_bytes readsBack32 hwf (by simp)
  | writeI8_3 r v0 v1 v2 | replyI8_3 r v0 v1 v2 => exact run3_bytes readsBack8 hwf (by simp)
  | writeI16_3 r v0 v1 v2 | replyI16_3 r v0 v1 v2 => exact run3_bytes readsBack16 hwf (by simp)
  | writeI32_3 r v0 v1 v2 | replyI32_3 r v0 v1 v2 => exact run3_bytes readsBack32 hwf (by simp)
  | writeF32_3 r v0 v1 v2 | replyF32_3 r v0 v1 v2 => exact run3_bytes readsBack32 hwf (by simp)
  | readI8_1 r | readI8_2 r | readI8_3 r | readI16_1 r | readI16_2 r | readI16_3 r => exact oneVar_bytes hwf rfl
  | readI32_1 r | readI32_2 r | readI32_3 r | readF32_1 r | readF32_2 r | readF32_3 r => exact oneVar_bytes hwf rfl
  | readI8N n r | readI16N n r | readI32N n r | readF32N n r => exact twoVars_bytes hwf (by simp)
  | writeError n r | readError n r | tunnelPoll n r => exact twoVars_bytes hwf (by simp)
  | tunnelC2s ch len d | tunnelS2c ch len d => exact dataForm_bytes hwf (by simp)
  | nop => rfl
  | _ => cases hi

end Sys2Proof
end

section
/-! Where the machine stops (93_implementation_defined part 2: U7, U12, U13, U14; log 16), and that the invariant excludes each
of these states. For the reply path: the dispatch unit's loop on encoded subframes executes them in order (45_dispatch
R287). -/

namespace Sys2Proof.Machine

/-! ### The parse of encoded subframes -/

/-- The parse is over where no bytes are left. -/
theorem dispatchDone_of_drop_nil {s : State} (h : s.payload.drop s.pp = []) : s.dispatchDone = true := by
  simp [State.dispatchDone, List.drop_eq_nil_iff.mp h]

/-- The parse is over after a tunnel subframe or an abort (45_dispatch R287, R294). -/
theorem dispatchDone_of_flags {s : State} (h : (s.abort || s.tunnelSeen) = true) : s.dispatchDone = true := by
  rw [State.dispatchDone, Bool.or_assoc, h, Bool.or_true]

theorem dispatchLoop_done (n : Nat) {s : State} (h : s.dispatchDone = true) : dispatchLoop n s = .next s := by
  cases n with
  | zero => rfl
  | succ n => simp [dispatchLoop, h]

theorem dispatchAll_flags (is : List Instr) {s : State} (h : (s.abort || s.tunnelSeen) = true) :
    dispatchAll is s = .next s := by
  cases is with
  | nil => rfl
  | cons i is => simp [dispatchAll, h]

/-- On a payload that is a sequence of encoded subframes the loop executes them in order (45_dispatch R287, R288). -/
theorem dispatchLoop_eq_dispatchAll (is : List Instr) {s : State} (n : Nat) (hparser : s.parser = .dispatch)
    (hwf : ∀ i ∈ is, i.wf s.cfg ∧ i.language = .subframe) (hbytes : s.payload.drop s.pp = is.flatMap encode)
    (hn : (is.flatMap encode).length ≤ n) : dispatchLoop n s = dispatchAll is s := by
  induction is generalizing s n with
  | nil => exact dispatchLoop_done n (dispatchDone_of_drop_nil hbytes)
  | cons i is ih =>
    obtain ⟨⟨hiwf, hisub⟩, hrest⟩ := List.forall_mem_cons.mp hwf
    cases hflags : s.abort || s.tunnelSeen with
    | true => rw [dispatchLoop_done n (dispatchDone_of_flags hflags), dispatchAll_flags _ hflags]
    | false =>
      rw [List.flatMap_cons] at hbytes hn
      have hsize := encode_length i
      have hpos := size_pos hisub
      have hleft := congrArg List.length hbytes
      rw [List.length_drop, List.length_append] at hleft
      rw [List.length_append] at hn
      obtain ⟨m, rfl⟩ : ∃ m, n = m + 1 := ⟨n - 1, by omega⟩
      obtain ⟨habort, htunnel⟩ := Bool.or_eq_false_iff.mp hflags
      have hgo : s.dispatchDone = false := dispatchDone_eq_false_iff.mpr ⟨by omega, habort, htunnel⟩
      have hfetch : dispatchFetch s = .run i s :=
        dispatchFetch_of_decodeSub (rest := is.flatMap encode) (by rw [hbytes, decodeSub_encode hisub hiwf])
      obtain ⟨t, hexec, hstep, hmoved⟩ := inner_dispatch hisub hparser
      have hloop : dispatchLoop (m + 1) s = dispatchLoop m t := by
        simp only [dispatchLoop, hgo, hfetch, Fetched.inner, hexec, Out.andThen, Bool.false_eq_true, if_false]
      have hall : dispatchAll (i :: is) s = dispatchAll is t := by
        simp only [dispatchAll, hflags, exec_eq_inner (.inr hisub), hexec, Out.andThen, Bool.false_eq_true, if_false]
      rw [hloop, hall]
      rcases hmoved with hpp | ⟨-, habort'⟩
      · refine ih m (hstep.parser.trans hparser) (by rwa [hstep.cfg]) ?_ (by omega)
        rw [hstep.payload, hpp, ← List.drop_drop, hbytes, ← hsize, List.drop_left]
      · have hflags' : (t.abort || t.tunnelSeen) = true := by simp [habort']
        rw [dispatchLoop_done m (dispatchDone_of_flags hflags'), dispatchAll_flags _ hflags']

/-! ### The stops -/

/-- `RX_BYTE` with a full buffer (93_implementation_defined U13). -/
theorem execRxByte_overflow {s : State} (d : Byte) (hrx : s.rxState = .readingMore)
    (hfull : s.cfg.rxBufSize ≤ s.rxBuf.length) : execRxByte d s = .fault .rxOverflow := by
  simp [execRxByte, hrx, hfull]

/-- `RX_CANCEL` of the dispatch unit's read while it is disabled (93_implementation_defined U14). -/
theorem execRxCancel_server {s : State} (hrx : s.rxState = .readingMore) (hen : s.srvEn = false)
    (howner : s.rxOwner = .server) : execRxCancel s = .fault .serverCompletion := by
  simp [execRxCancel, hrx, hen, howner]

/-- `TX_TAKE` past the end of the buffer (93_implementation_defined U12). -/
theorem execTxTake_beyond {s : State} (htx : s.txState = .busy) (hpos : s.txBuf.length ≤ s.txPos) :
    execTxTake s = .fault .outOfBounds := by
  simp [execTxTake, htx, List.getElem?_eq_none hpos]

/-- A whole frame in the buffer that the dispatch unit would get truncated (93_implementation_defined U14). -/
theorem execFrame_truncated {s : State} {src : BitVec 7} {rr : Bool} {dst : Byte} {len : VarU} {payload rest : List Byte}
    {crc : Half} (hrx : s.rxState = .awaitFrame) (howner : s.rxOwner = .server) (hcap : s.rxCap < payload.length)
    (hlen : len.counts payload.length)
    (hcrc : crc = fcs s.cfg ([0x54#8, 0xAB#8, srcByte src rr, dst] ++ len.bytes ++ payload))
    (hbuf : s.rxBuf = encode (.frame src rr dst len payload crc) ++ rest) :
    execFrame src rr dst len payload crc s = .fault .serverCompletion := by
  have hhead : s.rxBuf.take (4 + len.size + payload.length) =
      [0x54#8, 0xAB#8, srcByte src rr, dst] ++ len.bytes ++ payload := by
    rw [hbuf, encode, List.append_assoc]
    exact List.take_left' (by simp; omega)
  have hcut : s.rxCap < len.value.toNat := hlen.2 ▸ hcap
  simp only [execFrame, hrx, Nat.add_sub_cancel, hhead, ← hcrc, howner, hcut, ne_eq, not_true_eq_false, if_false,
    and_self, if_true]

/-- A frame's dispatch whose parse ends with a reply due, and the transmitter cannot take it (93_implementation_defined
U14). -/
theorem dispatchConclude_noReply {s0 u : State} (hneed : u.need = true) (hsend : u.sendOk = true)
    (h : u.txState = .busy ∨ u.cfg.txBufSize < frameLen u.replyFrame) : dispatchConclude s0 u = .fault .replyPath := by
  rw [dispatchConclude_reply (by simp [hneed, hsend]), sendReply]
  by_cases htx : u.txState = .busy
  · exact if_pos htx
  · have hbig : txOversize u.cfg [u.replyFrame] = true := by
      simp [txOversize, h.resolve_left htx]
    rw [if_neg htx]
    exact startTx_oversize_server s0 hbig

/-- Only a broadcast without the reply flag is not answered (45_dispatch R287, R289). -/
theorem sendOk_of_not_silent {s : State} (h : ¬(s.rxfDst = 0x7F#8 ∧ s.rxfRr = false)) : s.sendOk = true := by
  rw [State.sendOk, State.isBroadcast]
  by_cases hdst : s.rxfDst = 0x7F#8
  · simpa [hdst] using h
  · simp [hdst]

/-- The invariant excludes a reply that the transmitter cannot take (45_dispatch R293). -/
theorem reply_fits_of_inv {s u : State} (h : s.Inv) (hsrv : s.srvState = .frameReceived)
    (hstep : DispatchStep s.parsing u) : u.txState ≠ .busy ∧ frameLen u.replyFrame ≤ u.cfg.txBufSize := by
  obtain ⟨-, htx, -⟩ := hstep.framer
  have hreply : u.replyBuf.length ≤ s.cfg.replyCap := hstep.reply (Nat.zero_le _)
  have hcfg : u.cfg = s.cfg := hstep.cfg
  have hlen : frameLen u.replyFrame ≤ u.replyBuf.length + 11 := frameLen_le _
  obtain ⟨-, -, hready, -⟩ := h.received hsrv
  obtain ⟨⟨-, hbuf, -⟩, -⟩ := h
  refine ⟨fun hbusy => hready (htx ▸ hbusy), ?_⟩
  rw [hcfg]
  unfold Config.replyCap at hreply
  omega

/-- Settles O59: each stop from its own rule; a state in which it happens contradicts the part of the invariant named. -/
theorem modellingErrors : Obligations.ModellingErrors := by
  intro s
  refine ⟨fun h => ?status, fun hrx hfull => ⟨fun d => execRxByte_overflow d hrx hfull, ?bufferInv⟩,
    fun hrx hen howner => ⟨execRxCancel_server hrx hen howner, ?cancelInv⟩,
    fun src rr dst len payload rest hrx howner hcap hlen crc hcrc hbuf =>
      ⟨execFrame_truncated hrx howner hcap hlen hcrc hbuf, ?frameInv⟩,
    fun htx hpos => ⟨execTxTake_beyond htx hpos, ?takeInv⟩, fun hsrv haddr =>
      ⟨fun hmissing => ⟨execSrvDispatch_missing hsrv (isAddressed_iff.mpr haddr) hmissing, ?missingInv⟩,
        fun is u hpayload hwhole hwf hparse hneed hsilent hfull => ?reply⟩⟩
  case status =>
    have hillegal : s.statusLegal = false := by
      refine Bool.eq_false_iff.mpr fun hlegal => ?_
      obtain ⟨hsrv, hrx, hcnt⟩ := statusLegal_iff.mp hlegal
      rcases h with h | h | h
      · exact hsrv h
      · exact hrx h
      · omega
    exact ⟨execCsrRead_illegal hillegal, fun hinv => by simp [hinv.statusLegal] at hillegal⟩
  case bufferInv =>
    rintro ⟨-, -, ⟨hbuf, -⟩, -⟩
    unfold Config.rxBufSize at hfull
    omega
  case cancelInv =>
    intro hinv
    rw [hinv.rx_server hrx howner] at hen
    cases hen
  case frameInv =>
    rintro ⟨-, ⟨-, hscan, -⟩, -⟩
    exact hscan hrx
  case takeInv =>
    rintro ⟨-, -, -, -, ⟨-, -, hlt⟩, -⟩
    exact absurd (hlt htx) (not_lt.mpr hpos)
  case missingInv =>
    intro hinv
    obtain ⟨-, -, -, hall⟩ := hinv.received hsrv
    exact absurd hall hmissing.ne
  case reply =>
    obtain ⟨v, hloop, hstep, -⟩ := parsing_ends s
    have hall : s.payload = is.flatMap encode := by
      rw [State.payload, ← hwhole, List.take_length, hpayload]
    have hsame : dispatchLoop s.payload.length s.parsing = dispatchAll is s.parsing :=
      dispatchLoop_eq_dispatchAll is _ rfl hwf hall (by rw [hall])
    obtain rfl : v = u := Host.Outcome.next.inj (hloop.symm.trans (hsame.trans hparse))
    obtain ⟨-, htx, -⟩ := hstep.framer
    have hcfg : v.cfg = s.cfg := hstep.cfg
    have hfull' : v.txState = .busy ∨ v.cfg.txBufSize < frameLen v.replyFrame := by
      rw [htx, hcfg]
      exact hfull
    have hsend : v.sendOk = true := hstep.sendOk.trans (sendOk_of_not_silent hsilent)
    refine ⟨?_, fun hinv => ?_⟩
    · show execSrvDispatch s = _
      rw [execSrvDispatch_parse hsrv (isAddressed_iff.mpr haddr) hwhole.ge, hloop]
      exact dispatchConclude_noReply hneed hsend hfull'
    · obtain ⟨hidle, hfits⟩ := reply_fits_of_inv hinv hsrv hstep
      exact hfull'.elim hidle (not_lt.mpr hfits)

end Sys2Proof.Machine
end

section
/-! Frames read back what the encoder writes (30_encoding R80, R81), and with the subframes the wire's round trip. -/

namespace Sys2Proof

/-- The source byte's low bits are the source address (30_encoding R81). -/
theorem srcByte_setWidth (src : BitVec 7) (rr : Bool) : (srcByte src rr).setWidth 7 = src := by
  cases rr <;> simp [srcByte, BitVec.setWidth_or]

/-- The source byte's high bit is the reply flag (30_encoding R81). -/
theorem srcByte_msb (src : BitVec 7) (rr : Bool) : (srcByte src rr).msb = rr := by
  have hbit : (0x80#8).msb = true := by decide
  cases rr <;> simp [srcByte, BitVec.msb_or, BitVec.msb_setWidth, hbit]

/-- A well-formed frame reads back, whatever comes after it (30_encoding R80, R81). -/
theorem decodeFrame_encode {c : Config} {src : BitVec 7} {rr : Bool} {dst : Byte} {len : VarU} {payload : List Byte}
    {crc : Half} (hwf : (Instr.frame src rr dst len payload crc).wf c) (rest : List Byte) :
    decodeFrame c (encode (.frame src rr dst len payload crc) ++ rest) =
      .ok (.frame src rr dst len payload crc, rest) := by
  obtain ⟨⟨hlen, hcount⟩, hmax⟩ := hwf
  have hbytes : encode (.frame src rr dst len payload crc) ++ rest =
      0x54#8 :: 0xAB#8 :: srcByte src rr :: dst :: (len.bytes ++ (payload ++ (le16 crc ++ rest))) := by
    simp [encode]
  have hroom : ¬(payload ++ (le16 crc ++ rest)).length < payload.length + 2 := by
    simp only [List.length_append, le16_length]
    omega
  have hcrc : (payload ++ (le16 crc ++ rest)).drop (payload.length + 2) = rest := by
    rw [← List.drop_drop, List.drop_left, readsBack16.drop]
  rw [hbytes, decodeFrame]
  simp only [takeVar_bytes c hlen, hcount, if_neg (not_lt.mpr hmax), if_neg hroom, hcrc, List.take_left,
    List.drop_left, rd16_le16, srcByte_setWidth, srcByte_msb, ne_eq, not_true_eq_false, if_false]

/-- Settles O2: a frame by its fields in order, a subframe by its layout's shape. -/
theorem wireRoundTrip : Obligations.WireRoundTrip := by
  rintro c i rest hwf (hi | hi)
  · cases i with
    | frame src rr dst len payload crc => exact decodeFrame_encode hwf rest
    | _ => cases hi
  · rw [hi]
    exact decodeSub_encode hi hwf rest

end Sys2Proof
end

section
/-! Host commands and events read back what the encoder writes (30_encoding R85, R86, layout log 8): arguments first,
then every command and event. -/

namespace Sys2Proof

/-! ### Arguments of commands and events (log 8) -/

/-- A count that fits its field is the field's value. -/
theorem count_toNat {w n : Nat} (hn : n < 2 ^ w) : (BitVec.ofNat w n).toNat = n := by
  rw [BitVec.toNat_ofNat, Nat.mod_eq_of_lt hn]

/-- A 32-bit count reads back. -/
theorem rd32_count {n : Nat} (hn : n < 2 ^ 32) (t : List Byte) : (rd32 (le32 (BitVec.ofNat 32 n) ++ t)).toNat = n := by
  rw [rd32_le32, count_toNat hn]

/-- A byte string reads back. -/
theorem takeBytes_encBytes {d : List Byte} (hd : fits32 d) (t : List Byte) :
    takeBytes (encBytes d ++ t) = some (d, t) := by
  have hcount : ¬(encBytes d ++ t).length < 4 := by
    rw [List.length_append, encBytes_length]
    omega
  have hroom : ¬(d ++ t).length < d.length := by simp
  rw [encBytes, List.append_assoc] at hcount ⊢
  simp only [takeBytes, if_neg hcount, rd32_count hd, readsBack32.drop, if_neg hroom, List.take_left, List.drop_left]

theorem arg16_le16 {mk : Half → Instr} {d : Half} (t : List Byte) : arg16 mk (le16 d ++ t) = .ok (mk d, t) := by
  have hroom : ¬(le16 d ++ t).length < 2 := by
    rw [List.length_append, le16_length]
    omega
  rw [arg16, if_neg hroom, rd16_le16, readsBack16.drop]

theorem arg32_le32 {mk : Word → Instr} {v : Word} (t : List Byte) : arg32 mk (le32 v ++ t) = .ok (mk v, t) := by
  have hroom : ¬(le32 v ++ t).length < 4 := by simp
  rw [arg32, if_neg hroom, rd32_le32, readsBack32.drop]

theorem argBytes_encBytes {mk : List Byte → Instr} {d : List Byte} (hd : fits32 d) (t : List Byte) :
    argBytes mk (encBytes d ++ t) = .ok (mk d, t) := by
  rw [argBytes, takeBytes_encBytes hd]

theorem argBit_bit {mk : Bool → Instr} (b : Bool) (t : List Byte) :
    argBit mk ((if b then 1#8 else 0#8) :: t) = .ok (mk b, t) := by
  cases b <;> rfl

/-- A channel is a byte with the high bit clear. -/
theorem argChannel_byte (k : BitVec 7 → List Byte → Decoded) (ch : BitVec 7) (t : List Byte) :
    argChannel k (ch.setWidth 8 :: t) = k ch t := by
  have hmsb : (ch.setWidth 8).msb = false := by simp [BitVec.msb_setWidth]
  simp [argChannel, hmsb]

/-- A list of frames reads back. -/
theorem takeFrames_flatMap {fs : List Frame} (hfs : ∀ f ∈ fs, fits32 f.payload) (t : List Byte) :
    takeFrames fs.length (fs.flatMap encFrameArg ++ t) = some (fs, t) := by
  induction fs with
  | nil => rfl
  | cons f fs ih =>
    obtain ⟨hf, hrest⟩ := List.forall_mem_cons.mp hfs
    simp only [List.flatMap_cons, encFrameArg, List.cons_append, List.append_assoc, List.length_cons, takeFrames,
      takeBytes_encBytes hf, ih hrest, srcByte_setWidth, srcByte_msb]

/-- A list of patterns reads back. -/
theorem takePatterns_flatMap {ps : List (List Byte)} (hps : ∀ p ∈ ps, p.length < 256) (t : List Byte) :
    takePatterns ps.length (ps.flatMap encPattern ++ t) = some (ps, t) := by
  induction ps with
  | nil => rfl
  | cons p ps ih =>
    obtain ⟨hp, hrest⟩ := List.forall_mem_cons.mp hps
    have hcount : (BitVec.ofNat 8 p.length).toNat = p.length := count_toNat (w := 8) hp
    have hroom : ¬(p ++ (ps.flatMap encPattern ++ t)).length < p.length := by simp
    simp only [List.flatMap_cons, encPattern, List.cons_append, List.append_assoc, List.length_cons, takePatterns,
      hcount, if_neg hroom, List.drop_left, List.take_left, ih hrest]

theorem argFrames_encode {fs : List Frame} (hfs : fits32 fs ∧ ∀ f ∈ fs, fits32 f.payload) (t : List Byte) :
    argFrames (le32 (BitVec.ofNat 32 fs.length) ++ (fs.flatMap encFrameArg ++ t)) = .ok (.txFrames fs, t) := by
  obtain ⟨hcount, hpayloads⟩ := hfs
  have hroom : ¬(le32 (BitVec.ofNat 32 fs.length) ++ (fs.flatMap encFrameArg ++ t)).length < 4 := by simp
  rw [argFrames, if_neg hroom, rd32_count hcount, readsBack32.drop, takeFrames_flatMap hpayloads]

/-- A type index is at most 3 and names its type (30_encoding R84). -/
theorem index_byte (t : VType) : ¬3 < (BitVec.ofNat 8 t.index).toNat ∧ .ofIndex (BitVec.ofNat 8 t.index).toNat = t := by
  cases t <;> decide

/-- The register and the type index that `RQ_WRITE` and `RQ_READ` begin with, and the count after them. -/
theorem rq_fields {reg n : Word} {b : Byte} {s t : List Byte} (hs : s = le32 reg ++ b :: (le32 n ++ t)) :
    ¬s.length < 9 ∧ rd32 s = reg ∧ rd8 (s.drop 4) = b ∧ rd32 (s.drop 5) = n ∧ s.drop 9 = t := by
  subst hs
  refine ⟨?_, rd32_le32 reg _, rfl, rd32_le32 n t, rfl⟩
  simp only [List.length_append, List.length_cons, le32_length]
  omega

theorem argRqWrite_encode {reg : Word} {t : VType} {ps : List (List Byte)}
    (hps : fits32 ps ∧ ∀ p ∈ ps, p.length < 256) (rest : List Byte) :
    argRqWrite (le32 reg ++ BitVec.ofNat 8 t.index :: (le32 (BitVec.ofNat 32 ps.length) ++
      (ps.flatMap encPattern ++ rest))) = .ok (.rqWrite reg t ps, rest) := by
  obtain ⟨hcount, hlengths⟩ := hps
  obtain ⟨hroom, hreg, htype, hn, hrest⟩ := rq_fields (reg := reg) (n := BitVec.ofNat 32 ps.length)
    (b := BitVec.ofNat 8 t.index) (t := ps.flatMap encPattern ++ rest) rfl
  obtain ⟨hindex, hofIndex⟩ := index_byte t
  rw [argRqWrite, if_neg hroom, htype, if_neg hindex, hn, hrest, count_toNat hcount, takePatterns_flatMap hlengths]
  simp only [hreg, hofIndex]

theorem argRqRead_encode (reg n : Word) (t : VType) (rest : List Byte) :
    argRqRead (le32 reg ++ BitVec.ofNat 8 t.index :: (le32 n ++ rest)) = .ok (.rqRead reg t n, rest) := by
  obtain ⟨hroom, hreg, htype, hn, hrest⟩ := rq_fields (reg := reg) (n := n) (b := BitVec.ofNat 8 t.index)
    (t := rest) rfl
  obtain ⟨hindex, hofIndex⟩ := index_byte t
  rw [argRqRead, if_neg hroom, htype, if_neg hindex, hn, hrest, hreg, hofIndex]

/-! ### Commands and events -/

/-- A well-formed host command reads back, whatever comes after it (30_encoding R85). -/
theorem decodeCommand_encode {c : Config} {i : Instr} (hi : i.language = .command) (hwf : i.wf c) (rest : List Byte) :
    decodeCommand (encode i ++ rest) = .ok (i, rest) := by
  cases i with
  | crcInit | crcRead | vdecClr | rxCancel | srvStart | rqClear | rqGet => rfl
  | crcByte d | vdecByte d | csrRead d => rfl
  | crcCheck d => exact arg16_le16 rest
  | venc v | rxArm v => exact arg32_le32 rest
  | csrWrite j v =>
    have hroom : ¬(j :: (le32 v ++ rest)).length < 5 := by simp
    exact (if_neg (t := .error .short) hroom).trans
      (congrArg (fun w => Except.ok (Instr.csrWrite j w, rest)) (rd32_le32 v rest))
  | txFrames fs =>
    show argFrames (le32 _ ++ fs.flatMap encFrameArg ++ rest) = _
    rw [List.append_assoc, argFrames_encode hwf]
  | rqSetRr b => exact argBit_bit b rest
  | rqWrite reg t ps =>
    show argRqWrite (le32 reg ++ _ :: (le32 _ ++ ps.flatMap encPattern) ++ rest) = _
    rw [List.append_assoc, List.cons_append, List.append_assoc, argRqWrite_encode hwf]
  | rqRead reg t n => exact argRqRead_encode reg n t rest
  | rpParse payload => exact argBytes_encBytes hwf rest
  | _ => cases hi

/-- A well-formed event reads back, whatever comes after it (30_encoding R86). -/
theorem decodeEvent_encode {c : Config} {i : Instr} (hi : i.language = .event) (hwf : i.wf c) (rest : List Byte) :
    decodeEvent (encode i ++ rest) = .ok (i, rest) := by
  cases i with
  | txTake | rxTimeout | srvDispatch => rfl
  | rxByte d => rfl
  | rxTerr e | txTerr e => exact arg32_le32 rest
  | tRead ch n => exact (argChannel_byte (fun ch => arg32 (.tRead ch)) ch _).trans (arg32_le32 rest)
  | tWrite ch data =>
    exact (argChannel_byte (fun ch => argBytes (.tWrite ch)) ch _).trans (argBytes_encBytes hwf.2 rest)
  | _ => cases hi

/-- Settles O3: each argument reads back, and so each layout. -/
theorem portRoundTrip : Obligations.PortRoundTrip := by
  rintro c i rest hwf (hi | hi)
  · rw [hi]
    exact decodeCommand_encode hi hwf rest
  · rw [hi]
    exact decodeEvent_encode hi hwf rest

end Sys2Proof
end

section
/-! Which byte strings are no subframe (30_encoding R100, R101): the unassigned codes are unknown, and a layout's decoder
answers `short` until all bytes are there. The idea is monotonicity: more bytes at the end change no answer but `short`. -/

namespace Sys2Proof

/-! ### What more bytes change -/

/-- What more bytes at the end make of a field decoder's answer: an instruction stays and leaves them over, and only
`short` may become another answer. -/
inductive Extends (t : List Byte) : Decoded → Decoded → Prop where
  | ok (i : Instr) (r : List Byte) : Extends t (.ok (i, r)) (.ok (i, r ++ t))
  | short (d : Decoded) : Extends t (.error .short) d

/-- Where the longer byte string is taken whole, the shorter one is short. -/
theorem Extends.eq_short {t : List Byte} {d d' : Decoded} {i : Instr} (h : Extends t d d') (ht : t ≠ [])
    (hwhole : d' = .ok (i, [])) : d = .error .short := by
  cases h with
  | short => rfl
  | ok j r =>
    have hnil : r ++ t = [] := congrArg Prod.snd (Except.ok.inj hwhole)
    exact absurd (List.append_eq_nil_iff.mp hnil).2 ht

/-- `rd` looks at the first `w` bytes only. -/
def ReadsFront {α : Type} (w : Nat) (rd : List Byte → α) : Prop :=
  ∀ s t : List Byte, w ≤ s.length → rd (s ++ t) = rd s

theorem readsFront8 : ReadsFront 1 rd8
  | _ :: _, _, _ => rfl

theorem readsFront16 : ReadsFront 2 rd16
  | _ :: _ :: _, _, _ => rfl

theorem readsFront32 : ReadsFront 4 rd32
  | _ :: _ :: _ :: _ :: _, _, _ => rfl

section
variable {α : Type} {w : Nat} {rd : List Byte → α} (h : ReadsFront w rd)
include h

/-- The same past the first `k` bytes. -/
theorem ReadsFront.drop {k : Nat} {s : List Byte} (t : List Byte) (hk : k + w ≤ s.length) :
    rd ((s ++ t).drop k) = rd (s.drop k) := by
  rw [List.drop_append_of_le_length (by omega), h _ _ (by rw [List.length_drop]; omega)]

theorem ReadsFront.takeVals {n : Nat} {s : List Byte} (t : List Byte) (hn : n * w ≤ s.length) :
    takeVals w rd n (s ++ t) = takeVals w rd n s := by
  induction n generalizing s with
  | zero => rfl
  | succ n ih =>
    rw [Nat.succ_mul] at hn
    rw [Sys2Proof.takeVals, Sys2Proof.takeVals, h s t (by omega), List.drop_append_of_le_length (by omega),
      ih (by rw [List.length_drop]; omega)]

end

/-- A fixed number of bytes: all there with more after them, or short. -/
theorem extends_of_length {n : Nat} {s t : List Byte} {i j : Instr} (hij : n ≤ s.length → i = j) :
    Extends t (if s.length < n then .error .short else .ok (i, s.drop n))
      (if (s ++ t).length < n then .error .short else .ok (j, (s ++ t).drop n)) := by
  by_cases hlen : s.length < n
  · rw [if_pos hlen]
    exact .short _
  · have hlen' : ¬(s ++ t).length < n := by
      rw [List.length_append]
      omega
    rw [if_neg hlen, if_neg hlen', List.drop_append_of_le_length (by omega), hij (by omega)]
    exact .ok ..

section
variable {α : Type} {w : Nat} {rd : List Byte → α} (h : ReadsFront w rd) (c : Config) (s t : List Byte)

theorem oneVar_extends (mk : VarU → Instr) : Extends t (oneVar mk c s) (oneVar mk c (s ++ t)) := by
  cases hv : takeVar c s with
  | none =>
    rw [oneVar, hv]
    exact .short _
  | some x =>
    rw [oneVar, oneVar, hv, takeVar_append hv]
    exact .ok ..

theorem twoVars_extends (mk : VarU → VarU → Instr) : Extends t (twoVars mk c s) (twoVars mk c (s ++ t)) := by
  cases hv : takeVar c s with
  | none =>
    rw [twoVars, hv]
    exact .short _
  | some x =>
    rw [twoVars, twoVars, hv, takeVar_append hv]
    exact oneVar_extends ..

theorem dataForm_extends (mk : VarU → VarU → List Byte → Instr) :
    Extends t (dataForm mk c s) (dataForm mk c (s ++ t)) := by
  cases hch : takeVar c s with
  | none =>
    rw [dataForm, hch]
    exact .short _
  | some x =>
    rw [dataForm, dataForm, hch, takeVar_append hch]
    cases hlen : takeVar c x.2 with
    | none =>
      simp only [hlen]
      exact .short _
    | some y =>
      simp only [hlen, takeVar_append hlen]
      exact extends_of_length fun hn => by rw [List.take_append_of_le_length hn]

include h

theorem runN_extends (mk : VarU → VarU → List α → Instr) : Extends t (runN mk w rd c s) (runN mk w rd c (s ++ t)) := by
  cases hn : takeVar c s with
  | none =>
    rw [runN, hn]
    exact .short _
  | some x =>
    rw [runN, runN, hn, takeVar_append hn]
    cases hr : takeVar c x.2 with
    | none =>
      simp only [hr]
      exact .short _
    | some y =>
      simp only [hr, takeVar_append hr]
      exact extends_of_length fun hlen => by rw [h.takeVals t hlen]

theorem run1_extends (mk : VarU → α → Instr) : Extends t (run1 mk w rd c s) (run1 mk w rd c (s ++ t)) := by
  cases hr : takeVar c s with
  | none =>
    rw [run1, hr]
    exact .short _
  | some x =>
    rw [run1, run1, hr, takeVar_append hr]
    exact extends_of_length fun hlen => by rw [h _ t hlen]

theorem run2_extends (mk : VarU → α → α → Instr) : Extends t (run2 mk w rd c s) (run2 mk w rd c (s ++ t)) := by
  cases hr : takeVar c s with
  | none =>
    rw [run2, hr]
    exact .short _
  | some x =>
    rw [run2, run2, hr, takeVar_append hr]
    exact extends_of_length fun hlen => by rw [h _ t (by omega), h.drop t (by omega)]

theorem run3_extends (mk : VarU → α → α → α → Instr) : Extends t (run3 mk w rd c s) (run3 mk w rd c (s ++ t)) := by
  cases hr : takeVar c s with
  | none =>
    rw [run3, hr]
    exact .short _
  | some x =>
    rw [run3, run3, hr, takeVar_append hr]
    exact extends_of_length fun hlen => by rw [h _ t (by omega), h.drop t (by omega), h.drop t (by omega)]

end

/-! ### Unassigned codes, and bytes missing at the end (30_encoding R100, R101) -/

/-- The codes that 30_encoding R100 leaves unassigned. -/
def UnassignedCode (n : Nat) : Prop := (0x32 ≤ n ∧ n ≤ 0x3F) ∨ (0x43 ≤ n ∧ n ≤ 0x4F) ∨ 0x51 ≤ n

/-- An unassigned code is unknown, whatever comes after it. -/
theorem decodeSub_unassigned (c : Config) {code : Byte} (s : List Byte) (h : UnassignedCode code.toNat) :
    decodeSub c (code :: s) = .error .unknownCode := by
  unfold UnassignedCode at h
  unfold decodeSub
  dsimp only
  split
  case h_55 => rfl
  all_goals omega

/-- Every other code has a layout, whose answer more bytes extend. -/
theorem decodeSub_extends (c : Config) {code : Byte} (s t : List Byte) (h : ¬UnassignedCode code.toNat) :
    Extends t (decodeSub c (code :: s)) (decodeSub c (code :: (s ++ t))) := by
  unfold UnassignedCode at h
  unfold decodeSub
  dsimp only
  split
  case h_54 => exact .ok ..
  case h_55 =>
    simp only [imp_false] at *
    omega
  all_goals simp only [runN_extends, run1_extends, run2_extends, run3_extends, oneVar_extends, twoVars_extends,
    dataForm_extends, readsFront8, readsFront16, readsFront32]

/-- The unassigned codes, and no others, are unknown (30_encoding R100). -/
theorem decodeSub_unknown_iff (c : Config) (code : Byte) (s : List Byte) :
    decodeSub c (code :: s) = .error .unknownCode ↔ UnassignedCode code.toNat := by
  refine ⟨fun hunknown => ?_, decodeSub_unassigned c s⟩
  by_contra h
  have hext := decodeSub_extends c s [] h
  rw [hunknown] at hext
  cases hext

/-- A byte string that decodes to a subframe and leaves nothing over is short wherever it is cut (30_encoding R101). -/
theorem decodeSub_cut {c : Config} {s : List Byte} {i : Instr} {k : Nat} (h : decodeSub c s = .ok (i, []))
    (hk : k < s.length) : decodeSub c (s.take k) = .error .short := by
  match s, k with
  | [], _ => cases h
  | _ :: _, 0 => rfl
  | code :: s, k + 1 =>
    have hassigned : ¬UnassignedCode code.toNat := fun hcode => by
      rw [decodeSub_unassigned c s hcode] at h
      cases h
    have hext := decodeSub_extends c (s.take k) (s.drop k) hassigned
    rw [List.take_append_drop] at hext
    have hcut : s.drop k ≠ [] := by
      rw [Ne, List.drop_eq_nil_iff]
      exact not_le.mpr (Nat.lt_of_succ_lt_succ hk)
    exact hext.eq_short hcut h

/-- Settles O11: a cut subframe would decode, whole, to an instruction with bytes left over; a code is unknown exactly
where it has no layout. -/
theorem subframeErrors : Obligations.SubframeErrors := by
  refine ⟨fun c i k hwf hi hk => decodeSub_cut (i := i) ?_ hk, decodeSub_unknown_iff⟩
  have hwhole := decodeSub_encode hi hwf []
  rwa [List.append_nil] at hwhole

end Sys2Proof
end

section
/-! Turns that run no instruction (30_encoding R87, log 6, log 7, log 9, log 10), and events that are not enabled. -/

namespace Sys2Proof.Machine

/-! ### Turns without an instruction -/

/-- A turn that fetches no instruction is the step's outcome. -/
theorem step_of_turn_done {s : State} {r : List Move} {p : Port} {o : Out} (hs : s.settled)
    (hsched : s.sched = .take p :: r) (hturn : turnFetch p s = .done o) : step s = o := by
  obtain ⟨hparser, hrx, -⟩ := hs
  rw [step, fetch_take hparser hrx hsched, hturn]

/-- Settles O13: each clause is one rule of `turnFetch` at the schedule's head. -/
theorem turnsWithoutInstruction : Obligations.TurnsWithoutInstruction := by
  intro s hs
  refine ⟨step_of_sched_nil hs, ?nothing, ?badCommand, ?noEvent⟩
  case nothing =>
    intro r p hsched hp hoffer
    exact step_of_turn_done hs hsched (turnFetch_none ((offerAt_of_ne_dispatch hp).trans hoffer))
  case badCommand =>
    intro r bytes hsched hoffer hdec
    have hat : s.offerAt .host = some bytes := (offerAt_of_ne_dispatch (by decide)).trans hoffer
    cases herr : exact (decodeCommand bytes) with
    | ok i => exact absurd herr (hdec i)
    | error e => exact step_of_turn_done hs hsched (turnFetch_badCommand hat herr)
  case noEvent =>
    intro r p bytes hsched hhost hdispatch hoffer hdec
    have hat : s.offerAt p = some bytes := (offerAt_of_ne_dispatch hdispatch).trans hoffer
    exact step_of_turn_done hs hsched (turnFetch_undefined hhost hat hdec)

/-! ### Events that are not enabled -/

/-- A channel of `TUNNEL_IDS` is registered (45_dispatch R332). -/
theorem registered_of_mem {s : State} {ch : BitVec 7} (h : ch ∈ s.cfg.tunnelIds) : s.registered ch.toNat = true :=
  List.any_eq_true.mpr ⟨ch, h, beq_self_eq_true _⟩

/-- `RX_BYTE` needs a pending read (43_frame_sync R191). -/
theorem execRxByte_wait {s : State} (d : Byte) (h : s.rxState ≠ .readingMore) : execRxByte d s = .next s.wait :=
  if_pos h

/-- `RX_TERR` needs a pending read (43_frame_sync R197). -/
theorem execRxTerr_wait {s : State} (e : Word) (h : s.rxState ≠ .readingMore) : execRxTerr e s = .next s.wait :=
  if_pos h

/-- `RX_TIMEOUT` needs a pending read of the host's (43_frame_sync R196). -/
theorem execRxTimeout_wait {s : State} (h : s.rxState ≠ .readingMore ∨ s.rxOwner ≠ .host) :
    execRxTimeout s = .next s.wait :=
  if_pos h

/-- `TX_TAKE` needs a pending transmission (42_frame_codec R167). -/
theorem execTxTake_wait {s : State} (h : s.txState ≠ .busy) : execTxTake s = .next s.wait :=
  if_pos h

/-- `TX_TERR` needs a pending transmission (42_frame_codec R168). -/
theorem execTxTerr_wait {s : State} (e : Word) (h : s.txState ≠ .busy) : execTxTerr e s = .next s.wait :=
  if_pos h

/-- `T_READ` of a channel the block has needs a byte (45_dispatch R337). -/
theorem execTRead_wait {s : State} {ch : BitVec 7} (n : Word) (hch : ch ∈ s.cfg.tunnelIds)
    (hempty : s.rxq ch.toNat = []) : execTRead ch n s = .next s.wait := by
  simp [execTRead, registered_of_mem hch, hempty]

/-- `T_WRITE` to a channel the block has needs room (45_dispatch R338). -/
theorem execTWrite_wait {s : State} {ch : BitVec 7} (d : List Byte) (hch : ch ∈ s.cfg.tunnelIds)
    (hfull : s.cfg.tunnelTxCap ≤ (s.txq ch.toNat).length) : execTWrite ch d s = .next s.wait := by
  simp [execTWrite, registered_of_mem hch, hfull]

/-- Settles O22: each clause is the first test of the event's meaning. -/
theorem notEnabledWaits : Obligations.NotEnabledWaits := by
  intro s
  refine ⟨?noRead, ?serverRead, ?noTransmission, execSrvDispatch_wait, ?empty, ?full⟩
  case noRead =>
    intro hrx d e
    exact ⟨execRxByte_wait d hrx, execRxTerr_wait e hrx, execRxTimeout_wait (.inl hrx)⟩
  case serverRead =>
    intro howner
    exact execRxTimeout_wait (.inr (by simp [howner]))
  case noTransmission =>
    intro hidle
    have hbusy : s.txState ≠ .busy := by simp [hidle]
    exact ⟨execTxTake_wait hbusy, fun e => execTxTerr_wait e hbusy⟩
  case empty =>
    intro ch hch hempty n
    exact execTRead_wait n hch hempty
  case full =>
    intro ch hch hfull d
    exact execTWrite_wait d hch hfull

end Sys2Proof.Machine
end

section
/-! The varuint functions (40_varint R120 to R126): `venc` is the shortest of a value's encodings, and every encoding
decodes. -/

namespace Sys2Proof

/-! ### The length of an encoding -/

/-- What a value's first byte leaves fits one byte less exactly when the value fits (40_varint R121). -/
theorem rest_lt_iff (v : Word) (m : Nat) : (v >>> 7).toNat < 2 ^ (7 * m) ↔ v.toNat < 2 ^ (7 * (m + 1)) := by
  rw [BitVec.toNat_ushiftRight, Nat.shiftRight_eq_div_pow, Nat.div_lt_iff_lt_mul (by decide), ← pow_add,
    Nat.mul_add_one]

/-- A first byte is the last one exactly when the value has seven bits (40_varint R121). -/
theorem rest_eq_zero_iff (v : Word) : v >>> 7 = 0#32 ↔ v.toNat < 2 ^ 7 := by
  have hrest : (v >>> 7).toNat < 1 ↔ v.toNat < 2 ^ 7 := rest_lt_iff v 0
  rw [← hrest, Nat.lt_one_iff, ← BitVec.toNat_inj, BitVec.toNat_ofNat, Nat.zero_mod]

/-- The encoder's loop stops at a value of seven bits. -/
theorem vencLoop_last {n : Nat} {v : Word} (hv : v.toNat < 2 ^ 7) : vencLoop (n + 1) v = [low7 v] :=
  if_neg (not_not_intro ((rest_eq_zero_iff v).mpr hv))

/-- The encoder's loop goes on with what a larger value leaves. -/
theorem vencLoop_continued {n : Nat} {v : Word} (hv : ¬v.toNat < 2 ^ 7) :
    vencLoop (n + 1) v = (low7 v ||| 0x80#8) :: vencLoop n (v >>> 7) :=
  if_pos (fun hzero => hv ((rest_eq_zero_iff v).mp hzero))

theorem vencLoop_length_pos (n : Nat) (v : Word) : 0 < (vencLoop (n + 1) v).length := by
  by_cases hv : v.toNat < 2 ^ 7
  · simp [vencLoop_last hv]
  · simp [vencLoop_continued hv]

/-- The encoder's loop takes the fewest bytes whose data bits hold the value (40_varint R121, R122). -/
theorem vencLoop_length_le_iff {n : Nat} {v : Word} (hv : v.toNat < 2 ^ (7 * (n + 1))) (m : Nat) :
    (vencLoop (n + 1) v).length ≤ m + 1 ↔ v.toNat < 2 ^ (7 * (m + 1)) := by
  induction n generalizing v m with
  | zero =>
    have hlt : v.toNat < 2 ^ (7 * (m + 1)) := hv.trans_le (Nat.pow_le_pow_right (by decide) (by omega))
    simp [vencLoop_last hv, hlt]
  | succ n ih =>
    by_cases hlast : v.toNat < 2 ^ 7
    · have hlt : v.toNat < 2 ^ (7 * (m + 1)) := hlast.trans_le (Nat.pow_le_pow_right (by decide) (by omega))
      simp [vencLoop_last hlast, hlt]
    · rw [vencLoop_continued hlast, List.length_cons, Nat.add_le_add_iff_right, ← rest_lt_iff]
      cases m with
      | zero =>
        have hpos := vencLoop_length_pos n (v >>> 7)
        have hbig := (rest_lt_iff v 0).mp.mt hlast
        omega
      | succ m => exact ih ((rest_lt_iff v _).mpr hv) m

/-- The bytes of an encoding that is not cut short are those of the form of its length (30_encoding R83). -/
theorem encVarBytes_vencLoop {n : Nat} {v : Word} (hv : v.toNat < 2 ^ (7 * (n + 1))) :
    encVarBytes (vencLoop (n + 1) v).length v = vencLoop (n + 1) v := by
  induction n generalizing v with
  | zero => simp [vencLoop_last hv, encVarBytes]
  | succ n ih =>
    by_cases hlast : v.toNat < 2 ^ 7
    · simp [vencLoop_last hlast, encVarBytes]
    · obtain ⟨k, hk⟩ := Nat.exists_eq_add_of_lt (vencLoop_length_pos n (v >>> 7))
      have hrest := ih ((rest_lt_iff v _).mpr hv)
      rw [Nat.zero_add] at hk
      rw [hk] at hrest
      rw [vencLoop_continued hlast, List.length_cons, hk, encVarBytes, hrest]

/-- Five bytes hold every value (40_varint R120). -/
theorem word_lt_five_bytes (v : Word) : v.toNat < 2 ^ (7 * (4 + 1)) := by omega

/-- An encoding takes at most so many bytes exactly when their data bits hold the value (40_varint R122). -/
theorem venc_length_le_iff (v : Word) {m : Nat} (hm : 1 ≤ m) : (venc v).length ≤ m ↔ v.toNat < 2 ^ (7 * m) := by
  obtain ⟨m, rfl⟩ := Nat.exists_eq_add_of_le' hm
  exact vencLoop_length_le_iff (word_lt_five_bytes v) m

theorem venc_length_pos (v : Word) : 1 ≤ (venc v).length := vencLoop_length_pos 4 v

/-- The closed form of the length law (40_varint R122). -/
theorem venc_length (v : Word) : (venc v).length = max 1 ((v.toNat.size + 6) / 7) := by
  have hpos := venc_length_pos v
  have hlower : v.toNat.size ≤ 7 * (venc v).length :=
    Nat.size_le.mpr ((venc_length_le_iff v hpos).mp (Nat.le_refl _))
  have hupper : (venc v).length ≤ max 1 ((v.toNat.size + 6) / 7) :=
    (venc_length_le_iff v (Nat.le_max_left ..)).mpr (Nat.size_le.mp (by omega))
  omega

/-- Settles O5: each bound is `venc_length_le_iff` at one length. -/
theorem varintLength : Obligations.VarintLength := by
  intro v
  have hone := venc_length_le_iff v (m := 1) (by decide)
  have htwo := venc_length_le_iff v (m := 2) (by decide)
  have hthree := venc_length_le_iff v (m := 3) (by decide)
  have hfour := venc_length_le_iff v (m := 4) (by decide)
  have hpos := venc_length_pos v
  have hfive := venc_length_le v
  refine ⟨?_, ?_, ?_, ?_, ?_, venc_length v⟩ <;> omega

/-! ### Round trip -/

/-- Every admissible size of a value decodes (40_varint R124, 30_encoding R82). -/
theorem vdec_bytes (c : Config) {v : VarU} (hv : v.wf) (t : List Byte) : vdec c (v.bytes ++ t) = some v := by
  obtain ⟨-, -, -, -, hdec⟩ := takeVar_some (takeVar_bytes c hv t)
  exact hdec

/-- The encoder's size is admissible. -/
theorem VarU.minimal_wf (v : Word) : (VarU.minimal v).wf :=
  ⟨venc_length_pos v, venc_length_le v, (venc_length_le_iff v (venc_length_pos v)).mp (Nat.le_refl _)⟩

theorem VarU.minimal_bytes (v : Word) : (VarU.minimal v).bytes = venc v := encVarBytes_vencLoop (word_lt_five_bytes v)

/-- A varuint decodes to what was encoded, whatever follows it (40_varint R126). -/
theorem vdec_venc (c : Config) (v : Word) (t : List Byte) : vdec c (venc v ++ t) = some (VarU.minimal v) :=
  VarU.minimal_bytes v ▸ vdec_bytes c (VarU.minimal_wf v) t

/-- The fifth byte holds the bits from bit 28 up (40_varint R121). -/
theorem encVarBytes_fifth (v : Word) : (encVarBytes 5 v)[4]? = some (low7 (v >>> 7 >>> 7 >>> 7 >>> 7)) := rfl

/-- A fifth byte of the encoder's has at most four bits (40_varint R126). -/
theorem venc_fifth_le {v : Word} {b : Byte} (hb : (venc v)[4]? = some b) : b.toNat ≤ 0x0F := by
  obtain ⟨hlong, -⟩ := List.getElem?_eq_some_iff.mp hb
  have hfive : (venc v).length = 5 := by have := venc_length_le v; omega
  have hbytes : encVarBytes 5 v = venc v := hfive ▸ VarU.minimal_bytes v
  rw [← hbytes, encVarBytes_fifth] at hb
  cases hb
  simp only [low7_toNat, BitVec.toNat_ushiftRight, Nat.shiftRight_eq_div_pow]
  omega

/-- Settles O4: the encoder's bytes are one admissible size of the value. -/
theorem varintRoundTrip : Obligations.VarintRoundTrip := by
  intro c v
  have halone : vdec c (venc v) = some (VarU.minimal v) := by simpa using vdec_venc c v []
  exact ⟨halone, vdec_venc c v, fun _ => venc_fifth_le⟩

/-! ### What a decoded value says of its bytes -/

/-- An accumulator of `j` bytes with the next byte's data bits has `j + 1` bytes (40_varint R123). -/
theorem accumulate_lt {acc : Word} {j : Nat} (hacc : acc.toNat < 2 ^ (7 * j)) (b : Byte) :
    (acc ||| (b &&& 0x7F#8).setWidth 32 <<< (7 * j)).toNat < 2 ^ (7 * (j + 1)) := by
  have hbits : ((b &&& 0x7F#8).setWidth 32 <<< (7 * j)).toNat < 2 ^ (7 * (j + 1)) := by
    rw [BitVec.toNat_shiftLeft, dataBits_toNat, Nat.shiftLeft_eq, Nat.mul_add_one, Nat.add_comm, pow_add]
    exact (Nat.mod_le _ _).trans_lt (Nat.mul_lt_mul_of_pos_right (Nat.mod_lt _ (by decide)) (Nat.two_pow_pos _))
  rw [BitVec.toNat_or]
  exact Nat.or_lt_two_pow (hacc.trans_le (Nat.pow_le_pow_right (by decide) (by omega))) hbits

/-- A decoded value fits the bytes it was decoded from. -/
theorem vdecLoop_value_lt {c : Config} {j : Nat} {acc : Word} {s : List Byte} {v : VarU}
    (hacc : acc.toNat < 2 ^ (7 * j)) (h : vdecLoop c j acc s = some v) : v.value.toNat < 2 ^ (7 * v.size) := by
  induction s generalizing j acc with
  | nil => simp [vdecLoop] at h
  | cons b s ih =>
    have hnext := accumulate_lt hacc b
    simp only [vdecLoop] at h
    split at h
    · split at h
      · cases h; decide
      · cases h; exact hnext
    · split at h
      · cases h; decide
      · exact ih hnext h

theorem vdec_value_lt {c : Config} {s : List Byte} {v : VarU} (h : vdec c s = some v) :
    v.value.toNat < 2 ^ (7 * v.size) := vdecLoop_value_lt (by decide) h

/-- The bytes before a value's last are incomplete: a value of theirs would be the value (40_varint R123). -/
theorem vdec_take_none {c : Config} {s : List Byte} {v : VarU} {k : Nat} (h : vdec c s = some v) (hk : k < v.size) :
    vdec c (s.take k) = none := by
  rw [Option.eq_none_iff_forall_ne_some]
  intro w hw
  obtain ⟨-, -, hsize⟩ := vdec_size hw
  have hwhole := vdec_append (t := s.drop k) hw
  rw [List.take_append_drop, h] at hwhole
  cases hwhole
  rw [List.length_take] at hsize
  omega

/-- Settles O6: a decoded value fits its bytes, and the encoder takes the fewest that it fits. -/
theorem varintSizes : Obligations.VarintSizes := by
  intro c
  refine ⟨fun v t hv => vdec_bytes c hv t, fun s v h => ?_⟩
  obtain ⟨hpos, -, -⟩ := vdec_size h
  exact (venc_length_le_iff v.value hpos).mpr (vdec_value_lt h)

end Sys2Proof
end

section
/-! The varint unit's commands (40_varint R125 to R129): what each does, and that the incremental decoder agrees with
`vdec`. -/

namespace Sys2Proof.Machine

/-! ### The commands -/

theorem exec_vdecByte (d : Byte) (s : State) :
    exec (.vdecByte d) s = .next ((s.accept .host).setVd (vdFeed s.cfg s.vdRegs d)) := rfl

/-- `DONE` and `CLAMPED` begin anew, the other states go on (40_varint R128). -/
theorem vdStart_eq (r : VdRegs) :
    vdStart r = if r.st = .done ∨ r.st = .clamped then { r with acc := 0#32, cnt := 0 } else r := by
  obtain ⟨st, acc, cnt⟩ := r
  cases st <;> rfl

/-- The seven data bits of a byte, cut out or masked. -/
theorem dataBits_eq_extractLsb' (d : Byte) : (d &&& 0x7F#8).setWidth 32 = (d.extractLsb' 0 7).setWidth 32 := by
  apply BitVec.eq_of_toNat_eq
  rw [dataBits_toNat, BitVec.toNat_setWidth, BitVec.extractLsb'_toNat, Nat.shiftRight_zero]
  omega

/-- `VDEC_BYTE` as the rule's pseudocode has it (40_varint R128). -/
theorem vdFeed_eq (c : Config) (r : VdRegs) (d : Byte) {j : Nat} {acc : Word}
    (hj : j = if r.st = .done ∨ r.st = .clamped then 0 else r.cnt)
    (hacc : acc = (if r.st = .done ∨ r.st = .clamped then 0#32 else r.acc) |||
      ((d.extractLsb' 0 7).setWidth 32 <<< (7 * j))) :
    vdFeed c r d =
      if d.getLsbD 7 = false then
        if j = 4 ∧ d.extractLsb' 4 3 ≠ 0#3 ∧ c.fifthOverflow = .clamp then ⟨.clamped, 0xFFFFFFFF#32, j + 1⟩
        else ⟨.done, acc, j + 1⟩
      else if j + 1 = 5 then ⟨.clamped, 0xFFFFFFFF#32, j + 1⟩
      else ⟨.partialValue, acc, j + 1⟩ := by
  have hcnt : (vdStart r).cnt = j := by rw [vdStart_eq, hj]; split <;> rfl
  have hbits : (vdStart r).acc ||| ((d &&& 0x7F#8).setWidth 32 <<< (7 * j)) = acc := by
    rw [dataBits_eq_extractLsb', hacc, vdStart_eq]; split <;> rfl
  have hmsb : d.msb = d.getLsbD 7 := BitVec.msb_eq_getLsbD_last d
  simp only [vdFeed, hcnt, hbits, hmsb]

/-- Settles O29: `VENC` and `VDEC_CLR` as they stand, `VDEC_BYTE` by `vdFeed_eq`. -/
theorem varintCommands : Obligations.VarintCommands := by
  intro s
  refine ⟨fun _ => rfl, rfl, ?_⟩
  intro d j acc r hj hacc hr
  rw [exec_vdecByte, vdFeed_eq s.cfg s.vdRegs d hj hacc, ← hr]
  rfl

/-! ### The two decoders agree -/

/-- What `vdec` makes of the rest of a value of which the registers hold the beginning (40_varint R129). -/
def vdecRest (c : Config) (r : VdRegs) (s : List Byte) : Option VarU := vdecLoop c (vdStart r).cnt (vdStart r).acc s

/-- The decoder waits for the first byte of a value (40_varint R129). -/
abbrev VdRegs.fresh (r : VdRegs) : Prop :=
  (r.st = .empty ∧ r.cnt = 0 ∧ r.acc = 0#32) ∨ r.st = .done ∨ r.st = .clamped

theorem VdRegs.fresh.start {r : VdRegs} (h : r.fresh) : (vdStart r).cnt = 0 ∧ (vdStart r).acc = 0#32 := by
  rw [vdStart_eq]
  obtain ⟨hst, hcnt, hacc⟩ | hst | hst := h <;> simp [*]

/-- A decoder that waits for a first byte has all of `vdec` before it. -/
theorem vdecRest_fresh (c : Config) {r : VdRegs} (h : r.fresh) (s : List Byte) : vdecRest c r s = vdec c s := by
  obtain ⟨hcnt, hacc⟩ := h.start
  rw [vdecRest, hcnt, hacc, vdec]

/-- A byte either leaves a value incomplete, and `vdec` goes on from there, or completes the value that `vdec` answers
(40_varint R123, R128). -/
theorem vdFeed_cases (c : Config) (r : VdRegs) (b : Byte) (h : (vdStart r).cnt ≤ 4) :
    ((vdFeed c r b).st = .partialValue ∧ (vdStart (vdFeed c r b)).cnt = (vdStart r).cnt + 1 ∧
        (vdStart r).cnt + 1 ≤ 4 ∧ ∀ s, vdecRest c r (b :: s) = vdecRest c (vdFeed c r b) s) ∨
      (((vdFeed c r b).st = .done ∨ (vdFeed c r b).st = .clamped) ∧ (vdFeed c r b).cnt = (vdStart r).cnt + 1 ∧
        ∀ s, vdecRest c r (b :: s) = some ⟨(vdFeed c r b).acc, (vdFeed c r b).cnt⟩) := by
  by_cases hlast : b.msb = false
  · right
    by_cases hover : (vdStart r).cnt = 4 ∧ b.extractLsb' 4 3 ≠ 0#3 ∧ c.fifthOverflow = .clamp
    · simp [vdFeed, vdecRest, vdecLoop, hlast, hover]
    · simp [vdFeed, vdecRest, vdecLoop, hlast, hover]
  · by_cases hfifth : (vdStart r).cnt = 4
    · right
      simp [vdFeed, vdecRest, vdecLoop, hlast, hfifth]
    · left
      have hfeed : vdFeed c r b = ⟨.partialValue,
          (vdStart r).acc ||| (b &&& 0x7F#8).setWidth 32 <<< (7 * (vdStart r).cnt), (vdStart r).cnt + 1⟩ := by
        simp [vdFeed, hlast, hfifth]
      have hstay : vdStart (vdFeed c r b) = vdFeed c r b := by simp [vdStart_eq, hfeed]
      refine ⟨by rw [hfeed], by rw [hstay, hfeed], by omega, fun s => ?_⟩
      rw [vdecRest, vdecRest, hstay, hfeed, vdecLoop, if_neg hlast, if_neg hfifth]

/-- Bytes that `vdec` finds incomplete leave the decoder at `PARTIAL` (40_varint R129). -/
theorem foldl_vdFeed_incomplete {c : Config} {r : VdRegs} {b : Byte} {bs : List Byte} (hr : (vdStart r).cnt ≤ 4)
    (h : vdecRest c r (b :: bs) = none) : ((b :: bs).foldl (vdFeed c) r).st = .partialValue := by
  induction bs generalizing r b with
  | nil =>
    obtain ⟨hst, -⟩ | ⟨-, -, hdone⟩ := vdFeed_cases c r b hr
    · exact hst
    · simp [hdone] at h
  | cons d bs ih =>
    obtain ⟨-, hcnt, hmore, hrest⟩ | ⟨-, -, hdone⟩ := vdFeed_cases c r b hr
    · exact ih (by omega) (hrest _ ▸ h)
    · simp [hdone] at h

/-- The bytes of `vdec`'s value that are still to come complete it, with `vdec`'s value and count (40_varint R129). -/
theorem foldl_vdFeed_complete {c : Config} {r : VdRegs} {s : List Byte} {v : VarU} (hr : (vdStart r).cnt ≤ 4)
    (h : vdecRest c r s = some v) {t : VdRegs} (ht : (s.take (v.size - (vdStart r).cnt)).foldl (vdFeed c) r = t) :
    (t.st = .done ∨ t.st = .clamped) ∧ t.acc = v.value ∧ t.cnt = v.size := by
  induction s generalizing r with
  | nil => simp [vdecRest, vdecLoop] at h
  | cons b s ih =>
    obtain ⟨hlt, -⟩ := vdecLoop_size hr h
    obtain ⟨n, hn⟩ := Nat.exists_eq_add_of_lt hlt
    have htake : v.size - (vdStart r).cnt = n + 1 := by omega
    rw [htake, List.take_succ_cons, List.foldl_cons] at ht
    obtain ⟨-, hcnt, hmore, hrest⟩ | ⟨hst, hcnt, hdone⟩ := vdFeed_cases c r b hr
    · have hleft : v.size - (vdStart (vdFeed c r b)).cnt = n := by omega
      exact ih (by omega) (hrest s ▸ h) (hleft ▸ ht)
    · obtain rfl : _ = v := Option.some.inj ((hdone s).symm.trans h)
      obtain rfl : n = 0 := by simp only at hn; omega
      subst ht
      exact ⟨hst, rfl, rfl⟩

/-- A run of `VDEC_BYTE` feeds its bytes to the decoder, and its last command returns the registers (40_varint R128). -/
theorem execAll_vdecByte (b : Byte) (bs : List Byte) (s : State) :
    ∃ t : State, execAll ((b :: bs).map Instr.vdecByte) s = .next t ∧
      t.vdRegs = (b :: bs).foldl (vdFeed s.cfg) s.vdRegs ∧ t.result = .varint t.vdSt t.vdAcc t.vdCnt := by
  induction bs generalizing b s with
  | nil => exact ⟨_, rfl, rfl, rfl⟩
  | cons d bs ih => exact ih d ((s.accept .host).setVd (vdFeed s.cfg s.vdRegs b))

/-- Settles O30: the bytes before `vdec`'s last are incomplete for both decoders, and the last completes the value. -/
theorem decodersAgree : Obligations.DecodersAgree := by
  intro s bytes k (hfresh : s.vdRegs.fresh) hk hlen
  obtain ⟨hcnt, -⟩ := hfresh.start
  have hroom : (vdStart s.vdRegs).cnt ≤ 4 := by omega
  obtain ⟨b, bs, hbytes⟩ := List.exists_cons_of_length_pos (l := bytes.take k) (by rw [List.length_take]; omega)
  obtain ⟨t, hrun, hregs, hresult⟩ := execAll_vdecByte b bs s
  rw [← hbytes] at hrun hregs
  have hincomplete : vdec s.cfg (bytes.take k) = none → t.vdSt = .partialValue := by
    intro hnone
    rw [← vdecRest_fresh _ hfresh, hbytes] at hnone
    rw [hbytes] at hregs
    exact (congrArg VdRegs.st hregs).trans (foldl_vdFeed_incomplete hroom hnone)
  refine ⟨t, hrun, hresult, hincomplete, fun v hv =>
    ⟨fun hlt => hincomplete (vdec_take_none hv hlt), fun heq => ?_⟩⟩
  rw [← vdecRest_fresh _ hfresh] at hv
  exact foldl_vdFeed_complete hroom hv (by rw [hcnt, Nat.sub_zero, ← heq, ← hregs])

end Sys2Proof.Machine
end

section
/-! The CRC unit's commands (41_crc R145 to R148), one at a time and over a byte string (R143, R149). -/

namespace Sys2Proof.Machine

/-! ### The commands -/

theorem exec_crcInit (s : State) : exec .crcInit s = .next { s.accept .host with crcReg := s.cfg.crcInit } := rfl

theorem exec_crcByte (d : Byte) (s : State) :
    exec (.crcByte d) s = .next { s.accept .host with crcReg := crcStep s.cfg s.crcReg (refin s.cfg d) } := rfl

theorem exec_crcRead (s : State) : exec .crcRead s = .next { s.accept .host with result := .crc s.crcValue } := rfl

/-- The comparison of 41_crc R148, as an equation. -/
theorem exec_crcCheck (d : Half) (s : State) :
    exec (.crcCheck d) s = .next { s.accept .host with result := .check (decide (s.crcValue = d)) } := rfl

/-- Settles O27: each command's equation, with `CRC_VALUE` written out (41_crc R147). -/
theorem crcCommands : Obligations.CrcCommands := fun s =>
  ⟨exec_crcInit s, fun d => exec_crcByte d s, exec_crcRead s, fun d => exec_crcCheck d s⟩

/-! ### A byte string -/

/-- The block with `r` in `CRC_REG`; besides it only the outputs and the agents' turns differ. -/
structure CrcFed (r : Half) (s t : State) : Prop where
  frame : t = { s with
    crcReg := r, result := t.result, completion := t.completion, offers := t.offers, sched := t.sched }

theorem CrcFed.cfg {r : Half} {s t : State} (h : CrcFed r s t) : t.cfg = s.cfg := (congrArg State.cfg h.frame :)

theorem CrcFed.crcReg {r : Half} {s t : State} (h : CrcFed r s t) : t.crcReg = r := (congrArg State.crcReg h.frame :)

/-- What was in `CRC_REG` between is gone. -/
theorem CrcFed.trans {r r' : Half} {s t u : State} (h : CrcFed r s t) (k : CrcFed r' t u) : CrcFed r' s u := by
  obtain ⟨h⟩ := h
  obtain ⟨k⟩ := k
  rw [h] at k
  exact ⟨k⟩

/-- A run of `CRC_BYTE` folds its bytes into `CRC_REG` and goes on with the commands after it (41_crc R143, R146). -/
theorem execAll_crcBytes (ds : List Byte) (is : List Instr) (s : State) :
    ∃ t : State, execAll (ds.map Instr.crcByte ++ is) s = execAll is t ∧ CrcFed (crcFold s.cfg s.crcReg ds) s t := by
  induction ds generalizing s with
  | nil => exact ⟨s, rfl, ⟨rfl⟩⟩
  | cons d ds ih =>
    obtain ⟨t, hrun, hfed⟩ := ih { s.accept .host with crcReg := crcStep s.cfg s.crcReg (refin s.cfg d) }
    have hstep : CrcFed (crcStep s.cfg s.crcReg (refin s.cfg d)) s
        { s.accept .host with crcReg := crcStep s.cfg s.crcReg (refin s.cfg d) } := ⟨rfl⟩
    exact ⟨t, hrun, hstep.trans hfed⟩

/-- After `CRC_INIT` and a byte string, the unit holds the string's `crc16` (41_crc R143, R145, R147). -/
theorem execAll_crcInit_crcBytes (ds : List Byte) (is : List Instr) (s : State) :
    ∃ t : State, execAll (.crcInit :: (ds.map Instr.crcByte ++ is)) s = execAll is t ∧ CrcFed t.crcReg s t ∧
      t.crcValue = crc16 s.cfg ds := by
  obtain ⟨t, hrun, hfed⟩ := execAll_crcBytes ds is { s.accept .host with crcReg := s.cfg.crcInit }
  have hinit : CrcFed s.cfg.crcInit s { s.accept .host with crcReg := s.cfg.crcInit } := ⟨rfl⟩
  have hall := hinit.trans hfed
  refine ⟨t, hrun, hall.crcReg.symm ▸ hall, ?_⟩
  rw [State.crcValue, hall.cfg, hall.crcReg]
  rfl

/-- A command that returns `r` and changes nothing else leaves the state that the rule names (41_crc R147, R148). -/
theorem CrcFed.returns {s t : State} (h : CrcFed t.crcReg s t) (r : Result) :
    ∃ u : State, (.next { t.accept .host with result := r } : Out) = .next u ∧
      u = { s with crcReg := u.crcReg, result := r, completion := none, offers := u.offers, sched := u.sched } := by
  obtain ⟨h⟩ := h
  refine ⟨_, rfl, ?_⟩
  rw [h]
  rfl

/-- Settles O28: the bytes fold into the register, from which the last command returns the value. -/
theorem crcOverBytes : Obligations.CrcOverBytes := by
  intro s ds
  refine ⟨?read, fun d => ?check, ?framer⟩
  case read =>
    obtain ⟨t, hrun, hfed, hvalue⟩ := execAll_crcInit_crcBytes ds [.crcRead] s
    rw [hrun, ← hvalue]
    exact hfed.returns (.crc t.crcValue)
  case check =>
    obtain ⟨t, hrun, hfed, hvalue⟩ := execAll_crcInit_crcBytes ds [.crcCheck d] s
    rw [hrun, ← hvalue]
    exact hfed.returns (.check (decide (t.crcValue = d)))
  case framer => rfl

end Sys2Proof.Machine
end

section
/-! What an odd polynomial makes of one flipped bit (41_crc R151): every step of the register is a bijection, so strings
that differ in one byte have different checksums. -/

namespace Sys2Proof.Machine

/-! ### Flipped bits -/

/-- `v` with bit `k` flipped. -/
abbrev flipBit {w : Nat} (k : Nat) (v : BitVec w) : BitVec w := v ^^^ (1#w <<< k)

theorem flipBit_ne {w k : Nat} (hk : k < w) (v : BitVec w) : flipBit k v ≠ v := by
  intro h
  have hbit := congrArg (BitVec.getLsbD · k) h
  simp [hk] at hbit

/-- A changed byte in the front of two strings. -/
theorem modify_append_left (f : Byte → Byte) {j : Nat} {s : List Byte} (t : List Byte) (hj : j < s.length) :
    (s ++ t).modify j f = s.modify j f ++ t := by
  obtain ⟨front, b, back, rfl, rfl, hmodify⟩ := List.exists_of_modify f hj
  rw [hmodify, List.append_assoc, List.append_assoc]
  exact List.modifyTailIdx_add _ 0 front (b :: back ++ t)

/-- A changed byte in the back of two strings. -/
theorem modify_append_right (f : Byte → Byte) (j : Nat) (s t : List Byte) :
    (s ++ t).modify (s.length + j) f = s ++ t.modify j f := List.modifyTailIdx_add _ j s t

/-- A flipped bit of a byte of a half word is that byte's. -/
theorem extractLsb'_flip_inside {lo k : Nat} (hlo : lo ≤ 8) (hk : k < 8) (d : Half) :
    (flipBit (lo + k) d).extractLsb' lo 8 = flipBit k (d.extractLsb' lo 8) := by
  apply BitVec.eq_of_getLsbD_eq
  intro i hi
  have hin : lo + k < 16 := by omega
  simp [← BitVec.twoPow_eq, BitVec.getLsbD_twoPow, hi, hin, eq_comm]

/-- A bit flipped outside a byte of a half word leaves the byte. -/
theorem extractLsb'_flip_outside {lo n : Nat} (hn : n < lo ∨ lo + 8 ≤ n) (d : Half) :
    (flipBit n d).extractLsb' lo 8 = d.extractLsb' lo 8 := by
  apply BitVec.eq_of_getLsbD_eq
  intro i hi
  have hne : n ≠ lo + i := by omega
  simp [← BitVec.twoPow_eq, BitVec.getLsbD_twoPow, hi, hne]

/-- A bit flipped in one of a half word's bytes is one flipped in the half word (20_memory R62). -/
theorem le16_flip {j k : Nat} (hj : j < 2) (hk : k < 8) (d : Half) :
    (le16 d).modify j (flipBit k) = le16 (flipBit (8 * j + k) d) := by
  obtain rfl | rfl : j = 0 ∨ j = 1 := by omega
  · rw [le16, le16, Nat.mul_zero, extractLsb'_flip_inside (by decide) hk, extractLsb'_flip_outside (by omega)]
    rfl
  · rw [le16, le16, Nat.mul_one, extractLsb'_flip_inside (by decide) hk, extractLsb'_flip_outside (by omega)]
    rfl

/-! ### Reversal (41_crc R142) -/

/-- The lowest bit of `v` moved in under `acc`. -/
theorem pushBit_getLsbD {w m : Nat} (v acc : BitVec w) (hm : m < w) :
    ((acc <<< 1) ||| (v &&& 1#w)).getLsbD m = if m = 0 then v.getLsbD 0 else acc.getLsbD (m - 1) := by
  rw [← BitVec.twoPow_zero, BitVec.getLsbD_or, BitVec.getLsbD_and, BitVec.getLsbD_twoPow]
  cases m with
  | zero => simp [hm]
  | succ m => simp [hm, BitVec.getLsbD_eq_getElem (Nat.lt_of_succ_lt hm)]

/-- The loop moves the `n` low bits in reverse order under what it has. -/
theorem reverseLoop_getLsbD {w n i : Nat} (v acc : BitVec w) (hi : i < w) :
    (reverseLoop n v acc).getLsbD i = if i < n then v.getLsbD (n - 1 - i) else acc.getLsbD (i - n) := by
  induction n generalizing v acc with
  | zero => rfl
  | succ n ih =>
    rw [reverseLoop, ih, pushBit_getLsbD _ _ (by omega), BitVec.getLsbD_ushiftRight]
    obtain hlt | rfl | hgt := lt_trichotomy i n
    · rw [if_pos hlt, if_pos (by omega), show 1 + (n - 1 - i) = n + 1 - 1 - i by omega]
    · simp
    · rw [if_neg (by omega), if_neg (by omega), if_neg (by omega), Nat.sub_sub]

theorem reverseBits_eq_reverse {w : Nat} (v : BitVec w) : reverseBits v = v.reverse := by
  apply BitVec.eq_of_getLsbD_eq
  intro i hi
  rw [reverseBits, reverseLoop_getLsbD _ _ hi, if_pos hi, BitVec.getLsbD_reverse, BitVec.getMsbD]
  simp [hi]

theorem reverseBits_injective (w : Nat) : Function.Injective (reverseBits (w := w)) := by
  intro u v h
  rw [reverseBits_eq_reverse, reverseBits_eq_reverse] at h
  rw [← BitVec.reverse_reverse_eq (x := u), h, BitVec.reverse_reverse_eq]

theorem refin_injective (c : Config) : Function.Injective (refin c) := by
  intro a b h
  unfold refin at h
  split at h
  · exact reverseBits_injective 8 h
  · exact h

theorem refout_injective (c : Config) : Function.Injective (refout c) := by
  intro a b h
  unfold refout at h
  split at h
  · exact reverseBits_injective 16 h
  · exact h

/-! ### The register (41_crc R141, R143) -/

section
variable {poly : Half} (hodd : poly.getLsbD 0 = true)
include hodd

/-- A shift by an odd polynomial keeps the bit shifted out in the lowest bit. -/
theorem crcShift_getLsbD_zero (r : Half) : (crcShift poly r).getLsbD 0 = r.msb := by
  unfold crcShift
  cases r.msb <;> simp [hodd]

theorem crcShift_injective : Function.Injective (crcShift poly) := by
  intro r r' h
  have hmsb : r.msb = r'.msb := by
    rw [← crcShift_getLsbD_zero hodd, h, crcShift_getLsbD_zero hodd]
  have hlow : r <<< 1 = r' <<< 1 := by
    rw [crcShift, crcShift, hmsb] at h
    split at h
    · exact (BitVec.xor_left_inj poly).mp h
    · exact h
  apply BitVec.eq_of_getLsbD_eq
  intro i hi
  obtain rfl | hne := eq_or_ne i 15
  · exact hmsb
  · have hbit := congrArg (BitVec.getLsbD · (i + 1)) hlow
    have hin : i + 1 < 16 := by omega
    simpa only [BitVec.getLsbD_shiftLeft, hin, Nat.add_sub_cancel, decide_true, Bool.true_and,
      Nat.not_lt.mpr (Nat.le_add_left 1 i), decide_false, Bool.not_false] using hbit

theorem crcShifts_injective (n : Nat) : Function.Injective (crcShifts poly n) := by
  induction n with
  | zero => exact Function.injective_id
  | succ n ih => exact ih.comp (crcShift_injective hodd)

end

section
variable {c : Config} (hodd : c.crcPoly.getLsbD 0 = true)
include hodd

/-- The step of one byte loses nothing of the register. -/
theorem crcStep_injective (b : Byte) : Function.Injective (crcStep c · b) := fun _ _ h =>
  (BitVec.xor_left_inj _).mp (crcShifts_injective hodd 8 h)

/-- The step from one register loses nothing of the byte. -/
theorem crcStep_injective_byte (r : Half) : Function.Injective (crcStep c r) := by
  intro a b h
  have hhigh := (BitVec.xor_right_inj _).mp (crcShifts_injective hodd 8 h)
  bv_omega

/-- The bytes of one string lose nothing of the register. -/
theorem crcFold_injective (s : List Byte) : Function.Injective (crcFold c · s) := by
  induction s with
  | nil => exact Function.injective_id
  | cons b s ih => exact ih.comp (crcStep_injective hodd (refin c b))

/-- A changed byte changes the register: before it nothing differs, and after it nothing is lost. -/
theorem crcFold_modify_ne {f : Byte → Byte} (hf : ∀ b, f b ≠ b) {s : List Byte} {j : Nat} (hj : j < s.length)
    (r : Half) : crcFold c r (s.modify j f) ≠ crcFold c r s := by
  obtain ⟨front, b, back, rfl, -, hmodify⟩ := List.exists_of_modify f hj
  intro h
  simp only [hmodify, crcFold, List.foldl_append, List.foldl_cons] at h
  exact hf b (refin_injective c (crcStep_injective_byte hodd _ (crcFold_injective hodd back h)))

theorem crc16_modify_ne {f : Byte → Byte} (hf : ∀ b, f b ≠ b) {s : List Byte} {j : Nat} (hj : j < s.length) :
    crc16 c (s.modify j f) ≠ crc16 c s := fun h =>
  crcFold_modify_ne hodd hf hj _ (refout_injective c ((BitVec.xor_left_inj _).mp h))

/-- A changed byte changes the frame checksum, whatever `CRC_SPAN` says (41_crc R149, R151). -/
theorem fcs_modify_ne {f : Byte → Byte} (hf : ∀ b, f b ≠ b) {s : List Byte} {j : Nat} (hj : j < s.length) :
    fcs c (s.modify j f) ≠ fcs c s := by
  unfold fcs
  split
  · exact crc16_modify_ne hodd hf hj
  · rw [← modify_append_left f _ hj]
    exact crc16_modify_ne hodd hf (by rw [List.length_append]; omega)

end

/-! ### Frames (42_frame_codec R161, R163) -/

/-- The bytes of a frame before its payload (42_frame_codec R161). -/
def framePrefix (f : Frame) : List Byte :=
  [0x54#8, 0xAB#8, srcByte f.src f.rr, f.dst] ++ vencNat f.payload.length

theorem framePrefix_length (f : Frame) : (framePrefix f).length = 4 + (vencNat f.payload.length).length := by
  simp [framePrefix]
  omega

theorem frameHead_eq (f : Frame) : frameHead f = framePrefix f ++ f.payload := rfl

/-- A changed payload byte, with the payload's length kept, changes that byte of the frame. -/
theorem frameHead_modify (f : Frame) (g : Byte → Byte) (i : Nat) :
    frameHead { f with payload := f.payload.modify i g } = (frameHead f).modify ((framePrefix f).length + i) g := by
  rw [frameHead_eq, frameHead_eq, modify_append_right, framePrefix, framePrefix, List.length_modify]

/-- A frame with any CRC field is an encoding of the `FRAME` with that field (30_encoding R80, 42_frame_codec R161). -/
theorem frameHead_append_le16 (f : Frame) (d : Half) :
    frameHead f ++ le16 d =
      encode (.frame f.src f.rr f.dst (.minimal (BitVec.ofNat 32 f.payload.length)) f.payload d) := by
  rw [encode, VarU.minimal_bytes]
  rfl

/-- A frame's bytes with any CRC field decode to the frame exactly when the field is the checksum (42_frame_codec R163). -/
theorem decodeFrameString_frameHead {c : Config} (hwf : c.wf) {f : Frame} (hlen : f.payload.length ≤ c.maxPayload)
    (d : Half) :
    decodeFrameString c (frameHead f ++ le16 d) = if fcs c (frameHead f) = d then some f else none := by
  obtain ⟨-, -, -, -, -, -, hmax, -⟩ := hwf
  have hframe : (Instr.frame f.src f.rr f.dst (.minimal (BitVec.ofNat 32 f.payload.length)) f.payload d).wf c :=
    ⟨⟨VarU.minimal_wf _, count_toNat (by omega)⟩, hlen⟩
  have hdec := decodeFrame_encode hframe []
  rw [List.append_nil, ← frameHead_append_le16] at hdec
  have hhead : (frameHead f ++ le16 d).take ((frameHead f ++ le16 d).length - 2) = frameHead f := by simp
  rw [decodeFrameString, hdec]
  simp only [hhead]

/-- A frame with one bit flipped in its payload or its CRC does not decode: a flip in the payload changes the checksum,
a flip in the CRC field the field (41_crc R151). -/
theorem decodeFrameString_flip {c : Config} (hodd : c.crcPoly.getLsbD 0 = true) (hwf : c.wf) {f : Frame}
    (hlen : f.payload.length ≤ c.maxPayload) {j k : Nat} (hlow : (framePrefix f).length ≤ j)
    (hhigh : j < (encodeFrame c f).length) (hk : k < 8) :
    decodeFrameString c ((encodeFrame c f).modify j (flipBit k)) = none := by
  by_cases hpayload : j < (frameHead f).length
  · obtain ⟨i, rfl⟩ := Nat.exists_eq_add_of_le hlow
    have hchecksum : fcs c ((frameHead f).modify ((framePrefix f).length + i) (flipBit k)) ≠ fcs c (frameHead f) :=
      fcs_modify_ne hodd (flipBit_ne hk) hpayload
    rw [← frameHead_modify] at hchecksum
    rw [encodeFrame, modify_append_left _ _ hpayload, ← frameHead_modify,
      decodeFrameString_frameHead hwf (by rwa [List.length_modify]), if_neg hchecksum]
  · obtain ⟨i, rfl⟩ := Nat.exists_eq_add_of_le (not_lt.mp hpayload)
    rw [encodeFrame, List.length_append, le16_length] at hhigh
    have hi : i < 2 := by omega
    have hfield : fcs c (frameHead f) ≠ flipBit (8 * i + k) (fcs c (frameHead f)) := (flipBit_ne (by omega) _).symm
    rw [encodeFrame, modify_append_right, le16_flip hi hk, decodeFrameString_frameHead hwf hlen, if_neg hfield]

/-- Settles O9: a flip is a change of one byte, and the register forgets none. -/
theorem crcDetectsFlips : Obligations.CrcDetectsFlips := by
  intro c hodd
  refine ⟨?covered, ?field, ?frame⟩
  case covered => exact fun h j k hj hk => fcs_modify_ne hodd (flipBit_ne hk) hj
  case field =>
    rintro h _ k hk rfl
    exact (flipBit_ne hk _).symm
  case frame =>
    intro f j k hwf hlen hlow hhigh hk
    exact decodeFrameString_flip hodd hwf hlen (framePrefix_length f ▸ hlow) hhigh hk

end Sys2Proof.Machine
end

section
/-! Frames of the codec (42_frame_codec R160 to R164): the encoder's length law and the round trip, with the string a
frame was decoded from written out from its fields. -/

namespace Sys2Proof.Machine

/-! ### Lengths -/

/-- A larger value has no shorter varuint (40_varint R122). -/
theorem venc_length_mono {u v : Word} (h : u.toNat ≤ v.toNat) : (venc u).length ≤ (venc v).length := by
  have hpos := venc_length_pos v
  exact (venc_length_le_iff u hpos).mpr (h.trans_lt ((venc_length_le_iff v hpos).mp (Nat.le_refl _)))

/-- A longer payload makes a frame no shorter, as long as its length is a `u32` (42_frame_codec R162). -/
theorem frameLen_mono {f g : Frame} (h : f.payload.length ≤ g.payload.length) (hg : g.payload.length < 2 ^ 32) :
    frameLen f ≤ frameLen g := by
  have hvenc : (vencNat f.payload.length).length ≤ (vencNat g.payload.length).length :=
    venc_length_mono (by rwa [count_toNat hg, count_toNat (h.trans_lt hg)])
  rw [frameLen, frameLen]
  omega

/-- Settles O8: the encoder's length law, monotone in the payload. -/
theorem frameLength : Obligations.FrameLength := by
  rintro c f ⟨-, -, -, -, -, -, hmax, -⟩ hlen
  refine ⟨rfl, encodeFrame_length c f, fun g hg => ?_, ?_⟩
  · exact frameLen_mono (hg ▸ hlen) (hg ▸ hmax)
  · have hbound := frameLen_le f
    omega

/-! ### Round trip -/

/-- The source byte is put together from the fields it is taken apart into (30_encoding R81). -/
theorem srcByte_fields (b : Byte) : srcByte (b.setWidth 7) b.msb = b := by
  apply BitVec.eq_of_getLsbD_eq
  intro i hi
  obtain hlow | rfl : i < 7 ∨ i = 7 := by omega
  · have hbit := congrArg (BitVec.getLsbD · i) (srcByte_setWidth (b.setWidth 7) b.msb)
    simpa [hlow] using hbit
  · rw [← BitVec.msb_eq_getLsbD_last, ← BitVec.msb_eq_getLsbD_last, srcByte_msb]

/-- A half word read from the front of a byte string is written as the two bytes there (20_memory R62). -/
theorem le16_rd16_append {s : List Byte} (h : 2 ≤ s.length) : le16 (rd16 s) ++ s.drop 2 = s := by
  match s with
  | x :: y :: t =>
    have hlow : (y ++ x).extractLsb' 0 8 = x := BitVec.extractLsb'_append_eq_right
    have hhigh : (y ++ x).extractLsb' 8 8 = y := BitVec.extractLsb'_append_eq_left
    exact congrArg₂ (· :: · :: t) hlow hhigh

/-- A frame's fields in order are the bytes it was decoded from; the length field as it stands there (30_encoding R80). -/
theorem decodeFrame_bytes {c : Config} {s rest payload : List Byte} {src : BitVec 7} {rr : Bool} {dst : Byte}
    {len : VarU} {crc : Half} (h : decodeFrame c s = .ok (.frame src rr dst len payload crc, rest)) :
    vdec c (s.drop 4) = some len ∧ payload.length = len.value.toNat ∧
      s = [0x54#8, 0xAB#8, srcByte src rr, dst] ++ (s.drop 4).take len.size ++ payload ++ le16 crc ++ rest := by
  obtain ⟨b, dst, len, s', rfl, hlen, -, hroom, hframe, rfl⟩ := decodeFrame_ok h
  cases hframe
  have hpayload : ((s'.drop len.size).take len.value.toNat).length = len.value.toNat := by
    rw [List.length_take, List.length_drop]
    omega
  have hfield := le16_rd16_append (s := s'.drop (len.size + len.value.toNat)) (by rw [List.length_drop]; omega)
  rw [List.drop_drop] at hfield
  refine ⟨hlen, hpayload, ?_⟩
  rw [srcByte_fields, List.append_assoc _ (le16 _), hfield, List.append_assoc _ _ (s'.drop _), ← List.drop_drop,
    List.take_append_drop, List.append_assoc]
  exact congrArg (_ :: _ :: _ :: _ :: ·) (List.take_append_drop len.size s').symm

theorem decodeFrameString_some {c : Config} {s : List Byte} {f : Frame} (h : decodeFrameString c s = some f) :
    ∃ len crc, decodeFrame c s = .ok (.frame f.src f.rr f.dst len f.payload crc, []) ∧
      fcs c (s.take (s.length - 2)) = crc := by
  unfold decodeFrameString at h
  split at h
  · rename_i hdec
    split at h
    · rename_i hcrc
      cases h
      exact ⟨_, _, hdec, hcrc⟩
    · cases h
  · cases h

/-- A string that decodes, with a minimal length varuint, is what its frame encodes to (42_frame_codec R164). -/
theorem encodeFrame_of_decodeFrameString {c : Config} {s r : List Byte} {f : Frame} {v : Word}
    (hdec : decodeFrameString c s = some f) (hmin : s.drop 4 = venc v ++ r) : encodeFrame c f = s := by
  obtain ⟨len, crc, hframe, hcrc⟩ := decodeFrameString_some hdec
  obtain ⟨hlen, hcount, hbytes⟩ := decodeFrame_bytes hframe
  rw [hmin, vdec_venc] at hlen
  cases hlen
  have hfield : vencNat f.payload.length = venc v := by
    rw [vencNat, hcount, VarU.minimal, BitVec.ofNat_toNat, BitVec.setWidth_eq]
  have hhead : s = frameHead f ++ le16 crc := by
    rw [hbytes, hmin, VarU.minimal, List.take_left, List.append_nil, frameHead, hfield]
  have hcovered : s.take (s.length - 2) = frameHead f := by
    rw [hhead]
    simp
  rw [encodeFrame, ← hcovered, hcrc, hcovered, hhead]

/-- Settles O7: the encoder's bytes decode, and a decoded string is its frame's fields in order. -/
theorem frameRoundTrip : Obligations.FrameRoundTrip := by
  intro c hwf
  refine ⟨fun f hlen => ?_, fun s r f v => encodeFrame_of_decodeFrameString⟩
  rw [encodeFrame, decodeFrameString_frameHead hwf hlen, if_pos rfl]

end Sys2Proof.Machine
end

section
/-! The scan of the receive buffer is R181's loop: pass by pass, what the decoder finds behind the header search decides
as the rule's tests do; so an armed read is the rule's scan (43_frame_sync R181, R190). -/

namespace Sys2Proof.Machine

/-! ### One pass of R181's loop -/

/-- One pass of R181's loop on a buffer that the header search leaves, by what the decoder finds there. -/
def scanTextPass (c : Config) (n : Nat) (b : List Byte) (k : Nat) : ScanEnd :=
  match decodeFrame c b with
  | .ok (.frame _ _ _ len payload crc, _) =>
    if fcs c (b.take (4 + len.size + payload.length)) ≠ crc then scanText c n (b.drop 2) (k + 1)
    else .delivered (4 + len.size + payload.length + 2) len.value len.size b k
  | .ok _ | .error .short => .needMore b k
  | .error _ => scanText c n (b.drop 2) k

theorem scanTextPass_of_discard {c : Config} {b : List Byte} {e : DecodeError} (he : e ≠ .short)
    (hdec : decodeFrame c b = .error e) (n k : Nat) : scanTextPass c n b k = scanText c n (b.drop 2) k := by
  simp only [scanTextPass, hdec]

/-- The header search skips a byte that is not the header's low byte (43_frame_sync R182). -/
theorem scanText_skip (c : Config) (n : Nat) {x : Byte} (b : List Byte) (k : Nat) (hx : x ≠ 0x54#8) :
    scanText c (n + 1) (x :: b) k = scanText c (n + 1) b k := by
  have hskip : (x == 0x54#8) = false := by simpa using hx
  rw [scanText, scanText, List.findIdx?_cons, hskip]
  cases b.findIdx? (fun x => x == 0x54#8) <;> rfl

/-- The header search may be made before the pass (43_frame_sync R182). -/
theorem scanText_dropWhile (c : Config) (n : Nat) (b : List Byte) (k : Nat) :
    scanText c (n + 1) (b.dropWhile (fun x => x != 0x54#8)) k = scanText c (n + 1) b k := by
  induction b with
  | nil => rfl
  | cons x b ih =>
    by_cases hx : x = 0x54#8
    · simp [hx]
    · rw [scanText_skip c n b k hx, ← ih, List.dropWhile_cons_of_pos (by simpa using hx)]

theorem findIdx?_header (b : List Byte) : (0x54#8 :: b).findIdx? (fun x => x == 0x54#8) = some 0 := rfl

/-- The rule's tests of a candidate whose header and addresses are there are the decoder's (43_frame_sync R185 to
R188). -/
theorem scanText_candidate (c : Config) (n : Nat) (src dst : Byte) (b : List Byte) (k : Nat) :
    scanText c (n + 1) (0x54#8 :: 0xAB#8 :: src :: dst :: b) k =
      scanTextPass c n (0x54#8 :: 0xAB#8 :: src :: dst :: b) k := by
  cases hlen : vdec c b with
  | none => simp [scanText, scanTextPass, decodeFrame, takeVar, findIdx?_header, hlen]
  | some len =>
    obtain ⟨hpos, -, hsize⟩ := vdec_size hlen
    have hfive : ¬b.length + 1 + 1 + 1 + 1 < 5 := by omega
    by_cases hmax : c.maxPayload < len.value.toNat
    · simp [scanText, scanTextPass, decodeFrame, takeVar, findIdx?_header, hlen, hmax, hfive]
    · by_cases hroom : b.length - len.size < len.value.toNat + 2
      · have hshort : b.length + 1 + 1 + 1 + 1 < 4 + len.size + len.value.toNat + 2 := by omega
        simp [scanText, scanTextPass, decodeFrame, takeVar, findIdx?_header, hlen, hmax, hfive, hroom, hshort]
      · have hlong : ¬b.length < len.size + len.value.toNat + 2 := by omega
        have hpayload : min len.value.toNat (b.length - len.size) = len.value.toNat := by omega
        have hcrc : 4 + len.size + len.value.toNat = len.size + len.value.toNat + 4 := by omega
        simp [scanText, scanTextPass, decodeFrame, takeVar, findIdx?_header, hlen, hmax, hfive, hroom, hlong, hpayload,
          hcrc]

/-- The rule's tests behind the header search are the decoder's (43_frame_sync R181, R183 to R188). -/
theorem scanText_header (c : Config) (n : Nat) (b : List Byte) (k : Nat) :
    scanText c (n + 1) (0x54#8 :: b) k = scanTextPass c n (0x54#8 :: b) k := by
  match b with
  | [] => rfl
  | x :: b =>
    by_cases hx : x = 0xAB#8
    · subst hx
      match b with
      | [] | [_] => rfl
      | src :: dst :: b => exact scanText_candidate c n src dst b k
    · simp [scanText, scanTextPass, decodeFrame, findIdx?_header, hx]

/-- One pass of R181's loop: the header search, then what the decoder finds. -/
theorem scanText_pass (c : Config) (n : Nat) (b : List Byte) (k : Nat) :
    scanText c (n + 1) b k = scanTextPass c n (b.dropWhile (fun x => x != 0x54#8)) k := by
  obtain ⟨-, hhead⟩ := header_search b
  rw [← scanText_dropWhile]
  cases hb : b.dropWhile (fun x => x != 0x54#8) with
  | nil => rfl
  | cons x t =>
    rw [hb] at hhead
    obtain rfl : x = 0x54#8 := hhead
    exact scanText_header c n t k

/-! ### The machine's scan -/

theorem afterMismatches_succ (s : State) (k : Nat) :
    s.afterMismatches (k + 1) = (s.afterMismatches k).bump s.cfg.statsWidth .checksumMismatch :=
  Function.iterate_succ_apply' _ _ _

/-- The scan of `s` with the bytes `b` left in the buffer and `k` mismatches behind it. -/
def State.scanAt (s : State) (b : List Byte) (k : Nat) : State := { s with rxBuf := b, stats := s.afterMismatches k }

@[simp] theorem State.scanAt_cfg (s : State) (b : List Byte) (k : Nat) : (s.scanAt b k).cfg = s.cfg := rfl
@[simp] theorem State.scanAt_rxBuf (s : State) (b : List Byte) (k : Nat) : (s.scanAt b k).rxBuf = b := rfl
@[simp] theorem State.scanAt_rxState (s : State) (b : List Byte) (k : Nat) : (s.scanAt b k).rxState = s.rxState := rfl
@[simp] theorem State.scanAt_rxCap (s : State) (b : List Byte) (k : Nat) : (s.scanAt b k).rxCap = s.rxCap := rfl
@[simp] theorem State.scanAt_rxOwner (s : State) (b : List Byte) (k : Nat) : (s.scanAt b k).rxOwner = s.rxOwner := rfl

/-- Too few bytes behind the header search (43_frame_sync R184, R187). -/
theorem scanFetch_of_short {s : State} {b : List Byte} {k : Nat}
    (hdec : decodeFrame s.cfg (b.dropWhile (fun x => x != 0x54#8)) = .error .short) :
    scanFetch (s.scanAt b k) =
      .done (.next (s.afterScan (.needMore (b.dropWhile (fun x => x != 0x54#8)) k))) := by
  simp only [scanFetch, State.scanAt, hdec]
  rfl

/-- No candidate behind the header search (43_frame_sync R183, R186). -/
theorem scanFetch_of_discard {s : State} {b : List Byte} {k : Nat} {e : DecodeError} (he : e ≠ .short)
    (hdec : decodeFrame s.cfg (b.dropWhile (fun x => x != 0x54#8)) = .error e) :
    scanFetch (s.scanAt b k) = .done (.next (s.scanAt ((b.dropWhile (fun x => x != 0x54#8)).drop 2) k)) := by
  simp only [scanFetch, State.scanAt, hdec]

/-- A complete candidate behind the header search is executed there (43_frame_sync R187 to R189). -/
theorem scanFetch_inner_of_frame {s : State} {b rest payload : List Byte} {src : BitVec 7} {rr : Bool} {dst : Byte}
    {len : VarU} {crc : Half} (k : Nat)
    (hdec : decodeFrame s.cfg (b.dropWhile (fun x => x != 0x54#8)) = .ok (.frame src rr dst len payload crc, rest)) :
    (scanFetch (s.scanAt b k)).inner =
      execFrame src rr dst len payload crc (s.scanAt (b.dropWhile (fun x => x != 0x54#8)) k) := by
  rw [scanFetch_of_decodeFrame hdec]
  rfl

/-- A candidate with a wrong checksum is counted and its header discarded (43_frame_sync R188). -/
theorem execFrame_mismatch {s : State} {src : BitVec 7} {rr : Bool} {dst : Byte} {len : VarU} {b payload : List Byte}
    {crc : Half} (k : Nat) (hrx : s.rxState = .awaitFrame)
    (hcrc : fcs s.cfg (b.take (4 + len.size + payload.length)) ≠ crc) :
    execFrame src rr dst len payload crc (s.scanAt b k) = .next (s.scanAt (b.drop 2) (k + 1)) := by
  simp only [execFrame, State.scanAt_rxState, State.scanAt_rxBuf, State.scanAt_cfg, hrx, ne_eq, not_true_eq_false,
    if_false, Nat.add_sub_cancel, hcrc, not_false_eq_true, if_true]
  rw [State.scanAt, State.scanAt, afterMismatches_succ]
  rfl

/-- A delivery ends the scan with the fields read from the candidate's bytes (43_frame_sync R189). -/
theorem deliver_eq_afterScan (s : State) (src dst : Byte) (len : Word) (size total k : Nat) (t : List Byte) :
    deliver (src.setWidth 7) src.msb dst len ((t.drop size).take len.toNat) total
        (s.scanAt (0x54#8 :: 0xAB#8 :: src :: dst :: t) k) =
      s.afterScan (.delivered total len size (0x54#8 :: 0xAB#8 :: src :: dst :: t) k) := by
  have hkept : ((t.drop size).take len.toNat).take (min len.toNat s.rxCap) =
      (t.drop size).take (min len.toNat s.rxCap) := by
    rw [List.take_take, Nat.min_right_comm, Nat.min_self]
  have hdrop : (0x54#8 :: 0xAB#8 :: src :: dst :: t).drop (4 + size) = t.drop size := by
    rw [Nat.add_comm]
    rfl
  cases howner : s.rxOwner with
  | host =>
    rw [deliver_host (by rwa [State.scanAt_rxOwner])]
    simp [State.scanAt, State.afterScan, State.afterMismatches, howner, hkept, hdrop, rd8]
  | server =>
    rw [deliver_server (by rwa [State.scanAt_rxOwner])]
    simp [State.scanAt, State.afterScan, State.afterMismatches, howner, hkept, hdrop, rd8]

/-- A candidate whose checksum matches is delivered (43_frame_sync R189). -/
theorem execFrame_match {s : State} {src dst : Byte} {len : VarU} {t payload : List Byte} {crc : Half} (k : Nat)
    (hpayload : payload = (t.drop len.size).take len.value.toNat) (hrx : s.rxState = .awaitFrame)
    (hfits : ¬(s.rxOwner = .server ∧ s.rxCap < len.value.toNat))
    (hcrc : fcs s.cfg ((0x54#8 :: 0xAB#8 :: src :: dst :: t).take (4 + len.size + payload.length)) = crc) :
    execFrame (src.setWidth 7) src.msb dst len payload crc (s.scanAt (0x54#8 :: 0xAB#8 :: src :: dst :: t) k) =
      .next (s.afterScan (.delivered (4 + len.size + payload.length + 2) len.value len.size
        (0x54#8 :: 0xAB#8 :: src :: dst :: t) k)) := by
  rw [← deliver_eq_afterScan, ← hpayload]
  simp only [execFrame, State.scanAt_rxState, State.scanAt_rxBuf, State.scanAt_cfg, State.scanAt_rxOwner,
    State.scanAt_rxCap, hrx, ne_eq, not_true_eq_false, if_false, Nat.add_sub_cancel, hcrc, hfits]

/-- A scan with `k` mismatches behind it ends as R181's loop does, when the read can hold every frame or is the host's
(43_frame_sync R181). -/
theorem scanLoop_eq_scanText {n : Nat} {s : State} (hrx : s.rxState = .awaitFrame)
    (hcap : s.rxOwner = .host ∨ s.cfg.maxPayload ≤ s.rxCap) {b : List Byte} (hn : b.length < n) (k : Nat) :
    scanLoop n (s.scanAt b k) = .next (s.afterScan (scanText s.cfg n b k)) := by
  induction n generalizing b k with
  | zero => omega
  | succ n ih =>
    have hlen := (header_search b).1.length_le
    have hgo : scanLoop (n + 1) (s.scanAt b k) = (scanFetch (s.scanAt b k)).inner.andThen (scanLoop n) :=
      if_neg (not_not_intro hrx)
    rw [hgo, scanText_pass]
    cases hdec : decodeFrame s.cfg (b.dropWhile (fun x => x != 0x54#8)) with
    | error e =>
      by_cases he : e = .short
      · subst he
        rw [scanFetch_of_short hdec, scanTextPass, hdec]
        exact scanLoop_done n nofun
      · have hsome : b.dropWhile (fun x => x != 0x54#8) ≠ [] := by
          intro hnil
          rw [hnil] at hdec
          exact he (Except.error.inj hdec).symm
        have hpos := List.length_pos_iff.mpr hsome
        rw [scanFetch_of_discard he hdec, scanTextPass_of_discard he hdec]
        have hrest : ((b.dropWhile (fun x => x != 0x54#8)).drop 2).length < n := by
          rw [List.length_drop]
          omega
        exact ih hrest k
    | ok r =>
      obtain ⟨i, rest⟩ := r
      obtain ⟨src, dst, len, t, hbytes, -, hmax, -, rfl, -⟩ := decodeFrame_ok hdec
      have hfits : ¬(s.rxOwner = .server ∧ s.rxCap < len.value.toNat) := by
        rintro ⟨howner, hbig⟩
        rw [howner] at hcap
        have hroom := hcap.resolve_left nofun
        omega
      rw [scanFetch_inner_of_frame k hdec, scanTextPass, hdec]
      rw [hbytes] at hlen ⊢
      by_cases hcrc : fcs s.cfg ((0x54#8 :: 0xAB#8 :: src :: dst :: t).take
          (4 + len.size + ((t.drop len.size).take len.value.toNat).length)) = rd16 (t.drop (len.size + len.value.toNat))
      · rw [execFrame_match k rfl hrx hfits hcrc]
        dsimp only
        rw [if_neg (not_not_intro hcrc)]
        exact scanLoop_done n nofun
      · have hrest : (src :: dst :: t).length < n := by
          simp only [List.length_cons] at hlen ⊢
          omega
        rw [execFrame_mismatch k hrx hcrc]
        dsimp only
        rw [if_pos hcrc]
        exact ih hrest (k + 1)

/-- `scan()` is R181's loop (43_frame_sync R181). -/
theorem scan_eq_scanned {s : State} (hrx : s.rxState = .awaitFrame)
    (hcap : s.rxOwner = .host ∨ s.cfg.maxPayload ≤ s.rxCap) : scan s = .next s.scanned :=
  scanLoop_eq_scanText hrx hcap (Nat.lt_succ_self _) 0

/-- A read armed with none pending scans what is buffered (43_frame_sync R190). -/
theorem arm_eq_armed {s : State} (s0 : State) {cap : Nat} {owner : Owner} (hrx : s.rxState = .idle)
    (hcap : owner = .host ∨ s.cfg.maxPayload ≤ cap) : arm s0 cap owner s = .next (s.armed cap owner) := by
  rw [arm, if_neg (not_not_intro hrx)]
  exact scan_eq_scanned rfl hcap

end Sys2Proof.Machine
end

section
/-! The transmitter's instructions (42_frame_codec R165 to R170): one rule per outcome of `TX_FRAMES`, `TX_TAKE` and
`TX_TERR`, and the run of takes that drains a batch. -/

namespace Sys2Proof.Machine

/-! ### `TX_FRAMES` (42_frame_codec R165, R166) -/

theorem exec_txFrames (frames : List Frame) (s : State) : exec (.txFrames frames) s = execTxFrames frames s := rfl

/-- The dispatch unit owns the transmitter while it runs (42_frame_codec R166, 45_dispatch R284). -/
theorem execTxFrames_enabled {s : State} (frames : List Frame) (hen : s.srvEn = true) :
    execTxFrames frames s = .next ((s.accept .host).raise .serverOwns) :=
  if_pos hen

/-- A second transmission is refused while one is pending (42_frame_codec R166). -/
theorem execTxFrames_pending {s : State} (frames : List Frame) (hen : s.srvEn = false) (hbusy : s.txState = .busy) :
    execTxFrames frames s = .next ((s.accept .host).raise .doubleWrite) := by
  simp [execTxFrames, hen, hbusy]

/-- Otherwise the batch is started (42_frame_codec R165, R166). -/
theorem execTxFrames_start {s : State} (frames : List Frame) (hen : s.srvEn = false) (hidle : s.txState = .idle) :
    execTxFrames frames s = startTx (s.accept .host) frames .host (s.accept .host) := by
  simp [execTxFrames, hen, hidle]

/-- What makes a batch oversize: a payload, or the bytes of all its frames (42_frame_codec R165). -/
theorem txOversize_iff {c : Config} {frames : List Frame} :
    txOversize c frames = true ↔
      (∃ f ∈ frames, c.maxPayload < f.payload.length) ∨ c.txBufSize < (frames.map frameLen).sum := by
  simp [txOversize]

/-- Only the batch of no frames has no bytes (42_frame_codec R161). -/
theorem batch_ne_nil (c : Config) {frames : List Frame} (h : frames ≠ []) :
    frames.flatMap (encodeFrame c) ≠ [] := by
  obtain ⟨f, rest, rfl⟩ := List.exists_cons_of_ne_nil h
  rw [List.flatMap_cons]
  exact List.append_ne_nil_of_left_ne_nil (List.ne_nil_of_length_pos (encodeFrame_length_pos c f)) _

/-- Settles O36: the checks in their order, then the branches of `start_tx`. -/
theorem transmitStart : Obligations.TransmitStart := by
  intro s frames
  refine ⟨execTxFrames_enabled frames, execTxFrames_pending frames, ?oversize, ?batch, ?empty⟩
  case oversize =>
    intro hen hidle hbig
    rw [exec_txFrames, execTxFrames_start frames hen hidle]
    exact startTx_oversize_host _ (txOversize_iff.mpr hbig)
  case batch =>
    intro hen hidle hpayloads hsum hsome
    have hfits : txOversize s.cfg frames = false := by
      rw [Bool.eq_false_iff, ne_eq, txOversize_iff]
      rintro (⟨f, hf, hbig⟩ | hbig)
      · exact absurd (hpayloads f hf) (not_le.mpr hbig)
      · exact absurd hsum (not_le.mpr hbig)
    rw [exec_txFrames, execTxFrames_start frames hen hidle]
    exact startTx_busy _ .host hfits (batch_ne_nil s.cfg hsome)
  case empty =>
    intro hen hidle
    rw [exec_txFrames, execTxFrames_start [] hen hidle]
    exact startTx_empty _ .host rfl rfl

/-! ### The end of a transmission (42_frame_codec R167, R168) -/

/-- The dispatch unit's reply is sent: it becomes idle and arms its read again (45_dispatch R293). -/
theorem completeTx_server_ok {s : State} (s0 : State) (sent : Nat) (hrx : s.rxState = .idle) :
    completeTx s0 .server .ok sent s = .next s.rearmed :=
  arm_eq_armed s0 (s := { s with srvState := .idle }) hrx (.inr (le_refl _))

/-- The dispatch unit's reply is lost: that is counted first (42_frame_codec R168, 45_dispatch R293). -/
theorem completeTx_server_error {s : State} (s0 : State) (e : Word) (sent : Nat) (hrx : s.rxState = .idle) :
    completeTx s0 .server (.transportError e) sent s = .next (s.bump .writeError).rearmed :=
  arm_eq_armed s0 (s := { s.bump .writeError with srvState := .idle }) hrx (.inr (le_refl _))

/-! ### `TX_TERR` (42_frame_codec R168) -/

/-- A transport error ends the pending transmission. -/
theorem exec_txTerr_busy {s : State} (e : Word) (hbusy : s.txState = .busy) :
    exec (.txTerr e) s =
      completeTx (s.accept .transportTx) s.txOwner (.transportError e) s.txPos
        { s.accept .transportTx with txState := .idle } :=
  if_neg (not_not_intro hbusy)

/-- Settles O39: the two owners of the transmission that the error ends. -/
theorem transmitError : Obligations.TransmitError := by
  intro s e hbusy
  refine ⟨fun howner => ?_, fun howner hrx => ?_⟩
  · rw [exec_txTerr_busy e hbusy, howner]
    rfl
  · rw [exec_txTerr_busy e hbusy, howner]
    exact completeTx_server_error _ e _ hrx

/-! ### `TX_TAKE` (42_frame_codec R167) -/

section
variable {s : State} {d : Byte} (hbusy : s.txState = .busy) (hd : s.txBuf[s.txPos]? = some d)
include hbusy hd

/-- A byte before the last is taken and nothing else happens. -/
theorem exec_txTake_more (hmore : s.txPos + 1 < s.txBuf.length) :
    exec .txTake s = .next { s.accept .transportTx with txPos := s.txPos + 1, result := .byte d } := by
  change execTxTake s = _
  simp [execTxTake, hbusy, hd, Nat.ne_of_lt hmore]

/-- The last byte is taken and the transmission ends. -/
theorem exec_txTake_last (hlast : s.txPos + 1 = s.txBuf.length) :
    exec .txTake s =
      completeTx (s.accept .transportTx) s.txOwner .ok s.txBuf.length
        { s.accept .transportTx with txPos := s.txPos + 1, result := .byte d, txState := .idle } := by
  change execTxTake s = _
  simp [execTxTake, hbusy, hd, hlast]

/-- The last byte of the host's transmission brings its completion. -/
theorem exec_txTake_last_host (hlast : s.txPos + 1 = s.txBuf.length) (howner : s.txOwner = .host) :
    exec .txTake s =
      .next { s.accept .transportTx with
        txPos := s.txPos + 1, result := .byte d, txState := .idle
        completion := some ⟨.tx, .ok, .sent s.txBuf.length⟩ } := by
  rw [exec_txTake_last hbusy hd hlast, howner]
  rfl

end

/-- Settles O37: a byte before the last, and the last one of either owner's transmission. -/
theorem transmitTake : Obligations.TransmitTake := by
  intro s d hbusy hd
  refine ⟨exec_txTake_more hbusy hd, exec_txTake_last_host hbusy hd, fun hlast howner hrx => ?_⟩
  rw [exec_txTake_last hbusy hd hlast, howner]
  exact completeTx_server_ok _ _ hrx

/-! ### Draining a batch (42_frame_codec R167, R169, R170) -/

/-- `t` is `s` with the transmission over, but for the outputs and the agents' turns and offers. -/
structure TxDrained (s t : State) : Prop where
  frame : t = { s with
    txState := .idle, txPos := s.txBuf.length, result := t.result, completion := t.completion
    offers := t.offers, sched := t.sched }

/-- A run of takes is one take and the run after it. -/
theorem takeRun_succ {n : Nat} {s t u : State} {d : Byte} {ds : List Byte} {cs : List Completion}
    (htake : exec .txTake s = .next t) (hbyte : t.result = .byte d) (hrun : takeRun n t = some (ds, cs, u)) :
    takeRun (n + 1) s = some (d :: ds, t.completion.toList ++ cs, u) := by
  simp only [takeRun, htake, hbyte, hrun]

/-- The host's pending transmission is drained by as many takes as bytes are left. -/
theorem takeRun_drains {n : Nat} {s : State} (hbusy : s.txState = .busy) (howner : s.txOwner = .host)
    (hleft : s.txPos + n + 1 = s.txBuf.length) :
    ∃ u, takeRun (n + 1) s = some (s.txBuf.drop s.txPos, [⟨.tx, .ok, .sent s.txBuf.length⟩], u) ∧
      TxDrained s u := by
  induction n generalizing s with
  | zero =>
    have hpos : s.txPos < s.txBuf.length := by omega
    have htake := exec_txTake_last_host hbusy (List.getElem?_eq_getElem hpos) hleft howner
    have hlast : s.txBuf.drop s.txPos = [s.txBuf[s.txPos]] := by
      rw [List.drop_eq_getElem_cons hpos, List.drop_eq_nil_of_le (by omega)]
    refine ⟨_, hlast ▸ takeRun_succ htake rfl rfl, ⟨?frame⟩⟩
    rw [← hleft]
    rfl
  | succ n ih =>
    have hpos : s.txPos < s.txBuf.length := by omega
    have htake := exec_txTake_more hbusy (List.getElem?_eq_getElem hpos) (by omega)
    obtain ⟨u, hrun, hdrained⟩ := ih
      (s := { s.accept .transportTx with txPos := s.txPos + 1, result := .byte s.txBuf[s.txPos] })
      hbusy howner (by simp only [State.accept_txBuf]; omega)
    refine ⟨u, ?_, ⟨hdrained.frame⟩⟩
    rw [takeRun_succ htake rfl hrun, List.drop_eq_getElem_cons hpos]
    rfl

/-- Settles O38: the takes that `takeRun_drains` counts. -/
theorem transmitDrains : Obligations.TransmitDrains := by
  intro s hbusy howner hpos
  obtain ⟨n, hn⟩ := Nat.exists_eq_add_of_lt hpos
  have hleft : s.txBuf.length - s.txPos = n + 1 := by omega
  obtain ⟨u, hrun, hdrained⟩ := takeRun_drains hbusy howner hn.symm
  exact ⟨u, hleft ▸ hrun, hdrained.frame⟩

end Sys2Proof.Machine
end

section
/-! From the invariant no step is a modelling error (93_implementation_defined part 2): a turn fetches nothing, a
command or an event, and each of these goes on in a next state. -/

namespace Sys2Proof.Machine

/-- What a turn fetches: an outcome that is a next state or the one refusal, or a command or event to run (30_encoding
R85 to R87). -/
inductive TurnFetched (s : State) : Fetched → Prop where
  | next (t : State) : TurnFetched s (.done (.next t))
  | undefined : TurnFetched s (.done (.refused .undefinedEvent))
  | run (i : Instr) (lang : i.language = .command ∨ i.language = .event) : TurnFetched s (.run i s)

theorem turnFetch_cases (p : Port) (s : State) : TurnFetched s (turnFetch p s) := by
  cases hoffer : s.offerAt p with
  | none =>
    rw [turnFetch_none hoffer]
    exact .next _
  | some bytes =>
    by_cases hp : p = .host
    · subst hp
      cases hdec : exact (decodeCommand bytes) with
      | error e =>
        rw [turnFetch_badCommand hoffer hdec]
        exact .next _
      | ok i =>
        rw [turnFetch_host hoffer hdec]
        exact .run i (.inl (decodeCommand_language (exact_ok hdec)))
    · by_cases hdec : ∃ i, exact (decodeEvent bytes) = .ok i ∧ portOf i = some p
      · obtain ⟨i, hi, hport⟩ := hdec
        rw [turnFetch_event hp hoffer hi hport]
        exact .run i (portOf_language hport)
      · rw [turnFetch_undefined hp hoffer fun i hi hport => hdec ⟨i, hi, hport⟩]
        exact .undefined

/-- Settles O17: by the head of the schedule; `exec_command_inv` and `exec_event_inv` say that what is run goes on. -/
theorem noModellingFault : Obligations.NoModellingFault := by
  intro s h
  match hsched : s.sched with
  | [] => exact .inl ⟨_, step_of_sched_nil h.settled hsched⟩
  | .reset :: r => exact .inl ⟨_, step_of_reset h.settled hsched⟩
  | .take p :: r =>
    obtain ⟨hparser, hrx, -⟩ := h.settled
    rw [step, fetch_take hparser hrx hsched]
    have hfetched := turnFetch_cases p s
    generalize turnFetch p s = f at hfetched ⊢
    cases hfetched with
    | next t => exact .inl ⟨t, rfl⟩
    | undefined => exact .inr rfl
    | run i lang =>
      obtain ⟨t, ht, -⟩ := lang.elim (exec_command_inv · h) (exec_event_inv · h)
      exact .inl ⟨t, ht⟩

end Sys2Proof.Machine
end

section
/-! The receive commands and events (43_frame_sync R188 to R197): one rule per branch of `RX_ARM`, `RX_CANCEL`,
`RX_BYTE`, `RX_TERR`, `RX_TIMEOUT` and `FRAME`. -/

namespace Sys2Proof.Machine

/-! ### `RX_ARM` (43_frame_sync R190, R194) -/

theorem execRxArm_enabled {s : State} (cap : Word) (hen : s.srvEn = true) :
    execRxArm cap s = .next ((s.accept .host).raise .serverOwns) :=
  if_pos hen

theorem execRxArm_oversize {s : State} {cap : Word} (hen : s.srvEn = false) (hcap : s.cfg.maxPayload < cap.toNat) :
    execRxArm cap s = .next ((s.accept .host).raise .badCmd) := by
  simp [execRxArm, hen, hcap]

/-- A capacity in range is armed. -/
theorem execRxArm_arm {s : State} {cap : Word} (hen : s.srvEn = false) (hcap : cap.toNat ≤ s.cfg.maxPayload) :
    execRxArm cap s = arm (s.accept .host) cap.toNat .host (s.accept .host) := by
  simp [execRxArm, hen, hcap.not_gt]

/-- Settles O40: the two checks of the command, then the one of `arm`. -/
theorem receiveArm : Obligations.ReceiveArm := by
  intro s cap
  refine ⟨execRxArm_enabled cap, execRxArm_oversize, fun hen hcap hrx => ?pending, fun hen hcap hrx => ?armed⟩
  case pending => exact (execRxArm_arm hen hcap).trans (arm_pending hrx)
  case armed => exact (execRxArm_arm hen hcap).trans (arm_eq_armed _ hrx (.inl rfl))

/-! ### `RX_BYTE` (43_frame_sync R191) -/

/-- With a read pending and room in the buffer the byte is appended and the buffer scanned. -/
theorem execRxByte_scan {s : State} (d : Byte) (hrx : s.rxState = .readingMore)
    (hroom : s.rxBuf.length < s.cfg.rxBufSize) :
    execRxByte d s = scan { s.accept .transportRx with rxBuf := s.rxBuf ++ [d], rxState := .awaitFrame } := by
  simp [execRxByte, hrx, hroom.not_ge]

/-- Settles O41: the scan is R181's loop. -/
theorem receiveByte : Obligations.ReceiveByte := fun _ d hrx hroom hcap =>
  (execRxByte_scan d hrx hroom).trans (scan_eq_scanned rfl hcap)

/-! ### The ends of a read (43_frame_sync R195 to R197) -/

/-- A read that ends without a frame: the host gets the completion (43_frame_sync R195 to R197). -/
abbrev State.readEnded (s : State) (st : Status) : State :=
  { s with rxState := .idle, completion := some ⟨.rx, st, .none⟩ }

theorem execRxCancel_enabled {s : State} (hen : s.srvEn = true) :
    execRxCancel s = .next ((s.accept .host).raise .serverOwns) :=
  if_pos hen

theorem execRxCancel_nothing {s : State} (hen : s.srvEn = false) (hrx : s.rxState ≠ .readingMore) :
    execRxCancel s = .next (s.accept .host) := by
  simp [execRxCancel, hen, hrx]

theorem execRxCancel_host {s : State} (hen : s.srvEn = false) (hrx : s.rxState = .readingMore)
    (howner : s.rxOwner = .host) : execRxCancel s = .next ((s.accept .host).readEnded .canceled) := by
  simp [execRxCancel, hen, hrx, howner, State.emit]

theorem execRxTimeout_host {s : State} (hrx : s.rxState = .readingMore) (howner : s.rxOwner = .host) :
    execRxTimeout s = .next ((s.accept .timer).readEnded .timedOut) := by
  simp [execRxTimeout, hrx, howner, State.emit]

theorem execRxTerr_host {s : State} (e : Word) (hrx : s.rxState = .readingMore) (howner : s.rxOwner = .host) :
    execRxTerr e s = .next ((s.accept .transportRx).readEnded (.transportError e)) := by
  simp [execRxTerr, hrx, howner, State.emit]

/-- The dispatch unit's read is armed again (45_dispatch R285). -/
theorem execRxTerr_server {s : State} (e : Word) (hrx : s.rxState = .readingMore) (howner : s.rxOwner = .server) :
    execRxTerr e s = arm (s.accept .transportRx) s.cfg.maxPayload .server
      { s.accept .transportRx with rxState := .idle } := by
  simp [execRxTerr, hrx, howner]

/-- Settles O42: the branches of the three instructions that end a read, by its owner. -/
theorem receiveEnds : Obligations.ReceiveEnds := by
  intro s
  refine ⟨fun hen hrx => ?nothing, fun hrx howner => ⟨fun hen => ?cancel, ?timeout, fun e => ?error⟩,
    fun hrx howner e => ?rearm⟩
  case nothing => exact execRxCancel_nothing hen (by simp [hrx])
  case cancel => exact execRxCancel_host hen hrx howner
  case timeout => exact execRxTimeout_host hrx howner
  case error => exact execRxTerr_host e hrx howner
  case rearm => exact (execRxTerr_server e hrx howner).trans (arm_eq_armed _ rfl (.inr (le_refl _)))

/-! ### `FRAME` (43_frame_sync R188, R189) -/

/-- A frame's bytes before its CRC field are what the checksum covers, and its bytes are all that a delivery removes
(30_encoding R80, 43_frame_sync R188, R189). -/
theorem encode_frame_cut {src : BitVec 7} {rr : Bool} {dst : Byte} {len : VarU} {payload : List Byte} {crc : Half}
    {b rest : List Byte} (hb : b = encode (.frame src rr dst len payload crc) ++ rest) :
    b.take (4 + len.size + payload.length) = [0x54#8, 0xAB#8, srcByte src rr, dst] ++ len.bytes ++ payload ∧
      b.drop (4 + len.size + payload.length + 2) = rest := by
  have hsize : (encode (.frame src rr dst len payload crc)).length = 4 + len.size + payload.length + 2 :=
    encode_length (.frame src rr dst len payload crc)
  refine ⟨?_, by rw [hb, List.drop_left' hsize]⟩
  rw [hb, encode, List.append_assoc _ (le16 crc)]
  exact List.take_left' (by simp; omega)

section
variable {s : State} {src : BitVec 7} {rr : Bool} {dst : Byte} {len : VarU} {payload : List Byte} {crc : Half}

/-- Outside a scan nothing looks at the buffer (log 17). -/
theorem execFrame_outside (hrx : s.rxState ≠ .awaitFrame) : execFrame src rr dst len payload crc s = .next s :=
  if_pos hrx

variable (hrx : s.rxState = .awaitFrame)
include hrx

/-- A wrong checksum is counted and two bytes go (43_frame_sync R188). -/
theorem execFrame_counted (hcrc : fcs s.cfg (s.rxBuf.take (4 + len.size + payload.length)) ≠ crc) :
    execFrame src rr dst len payload crc s = .next { s.bump .checksumMismatch with rxBuf := s.rxBuf.drop 2 } := by
  simp [execFrame, hrx, hcrc]

/-- A frame that its reader can take is delivered (43_frame_sync R189). -/
theorem execFrame_delivered (hcrc : fcs s.cfg (s.rxBuf.take (4 + len.size + payload.length)) = crc)
    (hfits : s.rxOwner = .host ∨ len.value.toNat ≤ s.rxCap) :
    execFrame src rr dst len payload crc s =
      .next (deliver src rr dst len.value payload (4 + len.size + payload.length + 2) s) := by
  have hwhole : ¬(s.rxOwner = .server ∧ s.rxCap < len.value.toNat) := by
    rintro ⟨howner, hcut⟩
    exact hcut.not_ge (hfits.resolve_left (by simp [howner]))
  simp only [execFrame, hrx, ne_eq, not_true_eq_false, if_false, Nat.add_sub_cancel, hcrc, if_neg hwhole]

end

/-- Settles O43: the checksum covers the candidate's bytes before the CRC field; a delivery goes to the read's owner. -/
theorem frameCandidate : Obligations.FrameCandidate := by
  intro s src rr dst len payload crc hcounts
  obtain ⟨-, hcount⟩ := hcounts
  refine ⟨execFrame_outside, fun rest hrx hbuf => ?_⟩
  obtain ⟨hhead, hrest⟩ := encode_frame_cut hbuf
  rw [← hhead]
  refine ⟨execFrame_counted hrx, fun hcrc howner => ?host, fun hcrc howner hfits => ?server⟩
  case host =>
    refine (execFrame_delivered hrx hcrc (.inl howner)).trans ?_
    rw [deliver_host howner, hcount, hrest]
    simp only [decide_eq_true_eq]
  case server =>
    refine (execFrame_delivered hrx hcrc (.inr (hcount.trans_le hfits))).trans ?_
    rw [deliver_server howner, hcount, hrest, Nat.min_eq_left hfits, List.take_length, decide_eq_false hfits.not_gt]

end Sys2Proof.Machine
end

section
/-! What a step makes of a read and of a transmission, said once for every instruction and in every state between two
steps (42_frame_codec R165 to R169, 43_frame_sync R181 to R198): the moves of the two ports. -/

namespace Sys2Proof.Machine

/-! ### How a scan ends -/

/-- The completion output is one of this port's. -/
abbrev State.outputs (s : State) (p : CompletionPort) : Prop := ∃ st d, s.completion = some ⟨p, st, d⟩

/-- A scan ends on a buffer that needs more bytes, or with the read over; only a delivery to the host outputs a
completion (43_frame_sync R189 to R191). -/
inductive ScanOutcome (s t : State) : Prop where
  | waits (state : t.rxState = .readingMore) (short : decodeFrame s.cfg t.rxBuf = .error .short)
      (out : t.completion = s.completion)
  | toHost (state : t.rxState = .idle) (out : t.outputs .rx)
  | toServer (state : t.rxState = .idle) (owner : s.rxOwner = .server) (out : t.completion = s.completion)

/-- A scan's outcome, and what no scan touches. -/
structure ScanStep (s t : State) : Prop where
  cfg : t.cfg = s.cfg
  txState : t.txState = s.txState
  outcome : ScanOutcome s t

theorem deliver_step {s : State} (src : BitVec 7) (rr : Bool) (dst : Byte) (len : Word) (payload : List Byte)
    (total : Nat) : ScanStep s (deliver src rr dst len payload total s) := by
  cases howner : s.rxOwner with
  | host =>
    rw [deliver_host howner]
    exact ⟨rfl, rfl, .toHost rfl ⟨_, _, rfl⟩⟩
  | server =>
    rw [deliver_server howner]
    exact ⟨rfl, rfl, .toServer rfl howner rfl⟩

theorem scan_step {s t : State} (h : scan s = .next t) (hrx : s.rxState = .awaitFrame) : ScanStep s t := by
  obtain ⟨k, b, -, -, -, ⟨hshort, hwait⟩ | ⟨src, rr, dst, len, payload, crc, rest, -, -, hdeliver⟩⟩ := scan_cases hrx
  · rw [hwait] at h
    cases h
    exact ⟨rfl, rfl, .waits rfl hshort rfl⟩
  · rw [hdeliver] at h
    split at h
    · cases h
    · cases h
      obtain ⟨hcfg, htx, houtcome⟩ := deliver_step (s := { s with rxBuf := b, stats := s.afterMismatches k }) src rr dst
        len.value payload (4 + len.size + payload.length + 2)
      refine ⟨hcfg, htx, ?_⟩
      cases houtcome with
      | waits state short out => exact .waits state short out
      | toHost state out => exact .toHost state out
      | toServer state owner out => exact .toServer state owner out

/-! ### The moves -/

/-- The receive side is as it was. -/
structure RxKept (s t : State) : Prop where
  cfg : t.cfg = s.cfg
  rxBuf : t.rxBuf = s.rxBuf
  rxState : t.rxState = s.rxState

/-- Neither port moves and no completion is output. -/
structure QuietStep (s t : State) : Prop extends RxKept s t where
  txState : t.txState = s.txState
  out : t.completion = none

/-- The dispatch unit has something of its own to go on with: its read, its transmission or a frame (45_dispatch R285,
R287, R293). -/
abbrev State.unitActs (s : State) : Prop :=
  (s.rxState = .readingMore ∧ s.rxOwner = .server) ∨ (s.txState = .busy ∧ s.txOwner = .server) ∨
    s.srvState = .frameReceived

/-- EVERYTHING A STEP CAN DO TO THE TWO PORTS. `host` says that the turn is the host's. -/
inductive PortMove (host : Prop) (s t : State) : Prop where
  | quiet (same : QuietStep s t)
  | readEnds (pending : s.rxState = .readingMore) (state : t.rxState = .idle) (tx : t.txState = s.txState)
      (out : t.outputs .rx)
  | scans (u : State) (scan : ScanStep u t)
      (start : (s.rxState = .readingMore ∧ u.rxOwner = s.rxOwner) ∨ (s.rxState = .idle ∧ host))
      (cfg : u.cfg = s.cfg) (tx : u.txState = s.txState) (out : u.completion = none)
  | txStarts (start : s.txState = .idle) (rx : RxKept s t) (state : t.txState = .busy) (out : t.completion = none)
  | txEnds (start : s.txState = .busy ∨ (s.txState = .idle ∧ host)) (rx : RxKept s t) (state : t.txState = .idle)
      (out : t.outputs .tx)
  | unitArms (u : State) (scan : ScanStep u t) (cause : s.unitActs) (cfg : u.cfg = s.cfg)
  | unitReplies (cause : s.unitActs) (rx : RxKept s t)

theorem QuietStep.wait (s : State) : QuietStep s s.wait := ⟨⟨rfl, rfl, rfl⟩, rfl, rfl⟩

theorem QuietStep.accept (s : State) (p : Port) : QuietStep s (s.accept p) := ⟨⟨rfl, rfl, rfl⟩, rfl, rfl⟩

theorem QuietStep.raised (s : State) (p : Port) (f : FaultBit) : QuietStep s ((s.accept p).raise f) :=
  ⟨⟨rfl, rfl, rfl⟩, rfl, rfl⟩

theorem HostUnitStep.quiet {s t : State} (h : HostUnitStep s t) (out : t.completion = none) : QuietStep s t :=
  ⟨⟨(congrArg State.cfg h.frame :), (congrArg State.rxBuf h.frame :), (congrArg State.rxState h.frame :)⟩,
    (congrArg State.txState h.frame :), out⟩

section
variable {host : Prop} {s t : State}

/-! ### The framer's operations -/

/-- Arming a read is a scan, or refused with nothing else changed (43_frame_sync R190, R194). -/
theorem arm_cases {p : Port} {u : State} {cap : Nat} {owner : Owner} (h : arm (s.accept p) cap owner u = .next t) :
    QuietStep s t ∨
      (u.rxState = .idle ∧ ScanStep { u with rxCap := cap, rxOwner := owner, rxState := .awaitFrame } t) := by
  by_cases hrx : u.rxState = .idle
  · rw [arm, if_neg (not_not_intro hrx)] at h
    exact .inr ⟨hrx, scan_step h rfl⟩
  · rw [arm_pending hrx] at h
    cases h
    exact .inl (.raised ..)

/-- A read armed by the dispatch unit in a step of its own (45_dispatch R285, R287, R293). -/
theorem arm_unit {p : Port} {u : State} {cap : Nat} {owner : Owner} (h : arm (s.accept p) cap owner u = .next t)
    (cause : s.unitActs) (hcfg : u.cfg = s.cfg) : PortMove host s t :=
  (arm_cases h).elim .quiet fun ⟨_, hscan⟩ => .unitArms _ hscan cause hcfg

/-- A read armed in the host's turn (43_frame_sync R190, 45_dispatch R283). -/
theorem arm_host {p : Port} {u : State} {cap : Nat} {owner : Owner} (h : arm (s.accept p) cap owner u = .next t)
    (turn : host) (hcfg : u.cfg = s.cfg) (hrx : u.rxState = s.rxState) (htx : u.txState = s.txState)
    (hout : u.completion = none) : PortMove host s t :=
  (arm_cases h).elim .quiet fun ⟨hidle, hscan⟩ =>
    .scans _ hscan (.inr ⟨hrx.symm.trans hidle, turn⟩) hcfg htx hout

/-- The end of the dispatch unit's transmission (45_dispatch R293). -/
theorem completeTx_unit {p : Port} {u : State} {st : Status} {sent : Nat}
    (h : completeTx (s.accept p) .server st sent u = .next t) (cause : s.unitActs) (hcfg : u.cfg = s.cfg) :
    PortMove host s t := by
  obtain ⟨v, hv, heq⟩ := completeTx_server (s.accept p) st sent u
  have hvcfg : v.cfg = u.cfg := by rcases hv with rfl | rfl <;> rfl
  rw [heq] at h
  exact arm_unit h cause (hvcfg.trans hcfg)

/-- The end of a pending transmission (42_frame_codec R167, R168). -/
theorem completeTx_move {p : Port} {u : State} {st : Status} {sent : Nat}
    (h : completeTx (s.accept p) s.txOwner st sent u = .next t) (hbusy : s.txState = .busy) (hrx : RxKept s u)
    (htx : u.txState = .idle) : PortMove host s t := by
  cases howner : s.txOwner with
  | host =>
    rw [howner] at h
    cases h
    exact .txEnds (.inl hbusy) ⟨hrx.cfg, hrx.rxBuf, hrx.rxState⟩ htx ⟨_, _, rfl⟩
  | server =>
    rw [howner] at h
    exact completeTx_unit h (.inr (.inl ⟨hbusy, howner⟩)) hrx.cfg

/-- A frame's dispatch ends: the read is armed, or the reply is on its way (45_dispatch R287, R293). -/
theorem dispatchConclude_move {p : Port} {u : State} (h : dispatchConclude (s.accept p) u = .next t)
    (cause : s.unitActs) (hrx : RxKept s u) : PortMove host s t := by
  cases hreply : u.need && u.sendOk with
  | false =>
    rw [dispatchConclude_finish hreply] at h
    exact arm_unit h cause hrx.cfg
  | true =>
    rw [dispatchConclude_reply hreply, sendReply] at h
    split at h
    · cases h
    · cases hfits : txOversize u.cfg [u.replyFrame] with
      | true =>
        have hstop := startTx_oversize_server (s := { u with parser := .none, srvState := .replyAssembled })
          (s.accept p) hfits
        cases hstop.symm.trans h
      | false =>
        have hstart := startTx_busy (s := { u with parser := .none, srvState := .replyAssembled }) (s.accept p) .server
          hfits (batch_ne_nil _ (List.cons_ne_nil _ _))
        cases hstart.symm.trans h
        exact .unitReplies cause ⟨hrx.cfg, hrx.rxBuf, hrx.rxState⟩

/-! ### The framer's commands and events -/

/-- `TX_FRAMES` (42_frame_codec R165, R166). -/
theorem execTxFrames_move {frames : List Frame} (turn : host) (h : execTxFrames frames s = .next t) :
    PortMove host s t := by
  cases hen : s.srvEn with
  | true =>
    rw [execTxFrames_enabled frames hen] at h
    cases h
    exact .quiet (.raised ..)
  | false =>
    cases htx : s.txState with
    | busy =>
      rw [execTxFrames_pending frames hen htx] at h
      cases h
      exact .quiet (.raised ..)
    | idle =>
      rw [execTxFrames_start frames hen htx] at h
      cases hfits : txOversize (s.accept .host).cfg frames with
      | true =>
        rw [startTx_oversize_host _ hfits] at h
        cases h
        exact .txEnds (.inr ⟨htx, turn⟩) ⟨rfl, rfl, rfl⟩ htx ⟨_, _, rfl⟩
      | false =>
        by_cases hbytes : frames.flatMap (encodeFrame (s.accept .host).cfg) = []
        · rw [startTx_empty _ _ hfits hbytes] at h
          cases h
          exact .txEnds (.inr ⟨htx, turn⟩) ⟨rfl, rfl, rfl⟩ htx ⟨_, _, rfl⟩
        · rw [startTx_busy _ _ hfits hbytes] at h
          cases h
          exact .txStarts htx ⟨rfl, rfl, rfl⟩ rfl rfl

/-- `RX_ARM` (43_frame_sync R190). -/
theorem execRxArm_move {cap : Word} (turn : host) (h : execRxArm cap s = .next t) : PortMove host s t := by
  cases hen : s.srvEn with
  | true =>
    rw [execRxArm_enabled cap hen] at h
    cases h
    exact .quiet (.raised ..)
  | false =>
    by_cases hcap : s.cfg.maxPayload < cap.toNat
    · rw [execRxArm_oversize hen hcap] at h
      cases h
      exact .quiet (.raised ..)
    · rw [execRxArm_arm hen (not_lt.mp hcap)] at h
      exact arm_host h turn rfl rfl rfl rfl

/-- `RX_CANCEL` (43_frame_sync R195). -/
theorem execRxCancel_move (h : execRxCancel s = .next t) : PortMove host s t := by
  cases hen : s.srvEn with
  | true =>
    rw [execRxCancel_enabled hen] at h
    cases h
    exact .quiet (.raised ..)
  | false =>
    by_cases hrx : s.rxState = .readingMore
    · cases howner : s.rxOwner with
      | host =>
        rw [execRxCancel_host hen hrx howner] at h
        cases h
        exact .readEnds hrx rfl rfl ⟨_, _, rfl⟩
      | server =>
        rw [execRxCancel_server hrx hen howner] at h
        cases h
    · rw [execRxCancel_nothing hen hrx] at h
      cases h
      exact .quiet (.accept ..)

/-- `SRV_START` (45_dispatch R283). -/
theorem execSrvStart_move (turn : host) (h : execSrvStart s = .next t) : PortMove host s t := by
  unfold execSrvStart at h
  dsimp only at h
  split at h
  · cases h
    exact .quiet (.raised ..)
  · split at h
    · cases h
      exact .quiet (.raised ..)
    · split at h
      · cases h
        exact .quiet (.raised ..)
      · exact arm_host h turn rfl rfl rfl rfl

/-- `RX_BYTE` (43_frame_sync R191). -/
theorem execRxByte_move {d : Byte} (h : execRxByte d s = .next t) : PortMove host s t := by
  by_cases hrx : s.rxState = .readingMore
  · by_cases hroom : s.rxBuf.length < s.cfg.rxBufSize
    · rw [execRxByte_scan d hrx hroom] at h
      exact .scans _ (scan_step h rfl) (.inl ⟨hrx, rfl⟩) rfl rfl rfl
    · rw [execRxByte_overflow d hrx (not_lt.mp hroom)] at h
      cases h
  · rw [execRxByte_wait d hrx] at h
    cases h
    exact .quiet (.wait s)

/-- `RX_TERR` (43_frame_sync R197, 45_dispatch R285). -/
theorem execRxTerr_move {e : Word} (h : execRxTerr e s = .next t) : PortMove host s t := by
  by_cases hrx : s.rxState = .readingMore
  · cases howner : s.rxOwner with
    | host =>
      rw [execRxTerr_host e hrx howner] at h
      cases h
      exact .readEnds hrx rfl rfl ⟨_, _, rfl⟩
    | server =>
      rw [execRxTerr_server e hrx howner] at h
      exact arm_unit h (.inl ⟨hrx, howner⟩) rfl
  · rw [execRxTerr_wait e hrx] at h
    cases h
    exact .quiet (.wait s)

/-- `RX_TIMEOUT` (43_frame_sync R196). -/
theorem execRxTimeout_move (h : execRxTimeout s = .next t) : PortMove host s t := by
  by_cases hwait : s.rxState ≠ .readingMore ∨ s.rxOwner ≠ .host
  · rw [execRxTimeout_wait hwait] at h
    cases h
    exact .quiet (.wait s)
  · simp only [ne_eq, not_or, not_not] at hwait
    obtain ⟨hrx, howner⟩ := hwait
    rw [execRxTimeout_host hrx howner] at h
    cases h
    exact .readEnds hrx rfl rfl ⟨_, _, rfl⟩

/-- `TX_TAKE` (42_frame_codec R167). -/
theorem execTxTake_move (h : execTxTake s = .next t) : PortMove host s t := by
  by_cases hbusy : s.txState = .busy
  · cases hd : s.txBuf[s.txPos]? with
    | none =>
      rw [execTxTake_beyond hbusy (List.getElem?_eq_none_iff.mp hd)] at h
      cases h
    | some d =>
      obtain ⟨hpos, -⟩ := List.getElem?_eq_some_iff.mp hd
      by_cases hlast : s.txPos + 1 = s.txBuf.length
      · have htake := exec_txTake_last hbusy hd hlast
        exact completeTx_move (htake.symm.trans h) hbusy ⟨rfl, rfl, rfl⟩ rfl
      · have htake := exec_txTake_more hbusy hd (by omega)
        cases htake.symm.trans h
        exact .quiet ⟨⟨rfl, rfl, rfl⟩, rfl, rfl⟩
  · rw [execTxTake_wait hbusy] at h
    cases h
    exact .quiet (.wait s)

/-- `TX_TERR` (42_frame_codec R168). -/
theorem execTxTerr_move {e : Word} (h : execTxTerr e s = .next t) : PortMove host s t := by
  by_cases hbusy : s.txState = .busy
  · exact completeTx_move ((exec_txTerr_busy e hbusy).symm.trans h) hbusy ⟨rfl, rfl, rfl⟩ rfl
  · rw [execTxTerr_wait e hbusy] at h
    cases h
    exact .quiet (.wait s)

/-- `SRV_DISPATCH` (45_dispatch R286, R287). -/
theorem execSrvDispatch_move (h : execSrvDispatch s = .next t) : PortMove host s t := by
  by_cases hsrv : s.srvState = .frameReceived
  · cases haddr : s.isAddressed with
    | false =>
      rw [execSrvDispatch_skip hsrv haddr] at h
      exact arm_unit h (.inr (.inr hsrv)) rfl
    | true =>
      by_cases hlen : s.rxfPayload.length < s.rxfLen.toNat
      · rw [execSrvDispatch_missing hsrv haddr hlen] at h
        cases h
      · obtain ⟨u, hloop, hstep, -⟩ := parsing_ends s
        obtain ⟨hrx, -, -, -, hbuf⟩ := hstep.framer
        rw [execSrvDispatch_parse hsrv haddr (not_lt.mp hlen), hloop] at h
        exact dispatchConclude_move h (.inr (.inr hsrv)) ⟨hstep.cfg, hbuf, hrx⟩
  · rw [execSrvDispatch_wait hsrv] at h
    cases h
    exact .quiet (.wait s)

/-! ### The other commands and events -/

theorem execCsrRead_quiet {i : Byte} (h : execCsrRead i s = .next t) : QuietStep s t := by
  refine (execCsrRead_hostUnit h).quiet ?_
  unfold execCsrRead at h
  split at h
  · cases h
  · split at h
    · cases h
      rfl
    · cases h
      rfl

theorem execCsrWrite_quiet {i : Byte} {v : Word} (h : execCsrWrite i v s = .next t) : QuietStep s t := by
  by_cases hi : i = 0x00#8
  · cases (if_pos hi).symm.trans h
    exact ⟨⟨rfl, rfl, rfl⟩, rfl, rfl⟩
  · rw [execCsrWrite_other v hi] at h
    cases h
    exact .raised ..

/-- A subframe appended to the request, or refused (44_subframe_codec R250). -/
theorem rqAppend_completion {sub : List Byte} {done : State → State} (hdone : ∀ u, (done u).completion = u.completion) :
    (rqAppend sub done s).completion = s.completion := by
  unfold rqAppend
  split
  · rfl
  · exact hdone _

theorem execRqWrite_quiet {reg : Word} {ty : VType} {values : List (List Byte)}
    (h : execRqWrite reg ty values s = .next t) : QuietStep s t := by
  refine (execRqWrite_hostUnit h).quiet ?_
  unfold execRqWrite at h
  split at h
  · cases h
    rfl
  · cases h
    exact rqAppend_completion fun _ => rfl

theorem execRqRead_quiet {reg n : Word} {ty : VType} (h : execRqRead reg ty n s = .next t) : QuietStep s t := by
  refine (execRqRead_hostUnit h).quiet ?_
  cases h
  exact rqAppend_completion fun _ => rfl

theorem execRpParse_quiet {payload : List Byte} (h : execRpParse payload s = .next t) : QuietStep s t := by
  refine (execRpParse_hostUnit h).quiet ?_
  unfold execRpParse at h
  split at h
  · cases h
    rfl
  · obtain ⟨u, hloop, hstep, -⟩ := replyLoop_ends payload.length
      (s := { s.accept .host with rpMap := [], rpUsed := 0#32, rpPayload := payload, rpPos := 0, parser := .reply })
      rfl (Nat.zero_le _) rfl (by simp)
    rw [hloop] at h
    cases h
    exact (congrArg State.completion hstep.frame :)

theorem TunnelStep.quiet (h : TunnelStep s t) (out : t.completion = none) : QuietStep s t :=
  ⟨⟨(congrArg State.cfg h.frame :), (congrArg State.rxBuf h.frame :), (congrArg State.rxState h.frame :)⟩,
    (congrArg State.txState h.frame :), out⟩

theorem execTRead_quiet {ch : BitVec 7} {n : Word} (h : execTRead ch n s = .next t) : QuietStep s t := by
  refine (execTRead_tunnel h).quiet ?_
  unfold execTRead at h
  split at h
  · cases h
    rfl
  · split at h
    · cases h
      rfl
    · cases h
      rfl

theorem execTWrite_quiet {ch : BitVec 7} {data : List Byte} (h : execTWrite ch data s = .next t) : QuietStep s t := by
  refine (execTWrite_tunnel h).quiet ?_
  unfold execTWrite at h
  split at h
  · cases h
    rfl
  · split at h
    · cases h
      rfl
    · cases h
      rfl

/-! ### Steps -/

/-- Every host command (30_encoding R85). -/
theorem command_move {i : Instr} (turn : host) (hi : i.language = .command) (h : exec i s = .next t) :
    PortMove host s t := by
  cases i with
  | crcInit => cases h; exact .quiet ⟨⟨rfl, rfl, rfl⟩, rfl, rfl⟩
  | crcByte d => cases h; exact .quiet ⟨⟨rfl, rfl, rfl⟩, rfl, rfl⟩
  | crcRead => cases h; exact .quiet ⟨⟨rfl, rfl, rfl⟩, rfl, rfl⟩
  | crcCheck d => cases h; exact .quiet ⟨⟨rfl, rfl, rfl⟩, rfl, rfl⟩
  | venc v => cases h; exact .quiet ⟨⟨rfl, rfl, rfl⟩, rfl, rfl⟩
  | vdecClr => cases h; exact .quiet ⟨⟨rfl, rfl, rfl⟩, rfl, rfl⟩
  | vdecByte d => cases h; exact .quiet ⟨⟨rfl, rfl, rfl⟩, rfl, rfl⟩
  | txFrames frames => exact execTxFrames_move turn h
  | rxArm cap => exact execRxArm_move turn h
  | rxCancel => exact execRxCancel_move h
  | srvStart => exact execSrvStart_move turn h
  | csrRead i => exact .quiet (execCsrRead_quiet h)
  | csrWrite i v => exact .quiet (execCsrWrite_quiet h)
  | rqClear => cases h; exact .quiet ⟨⟨rfl, rfl, rfl⟩, rfl, rfl⟩
  | rqSetRr b => cases h; exact .quiet ⟨⟨rfl, rfl, rfl⟩, rfl, rfl⟩
  | rqWrite reg ty values => exact .quiet (execRqWrite_quiet h)
  | rqRead reg ty n => exact .quiet (execRqRead_quiet h)
  | rqGet => cases h; exact .quiet ⟨⟨rfl, rfl, rfl⟩, rfl, rfl⟩
  | rpParse payload => exact .quiet (execRpParse_quiet h)
  | _ => cases hi

/-- Every event (30_encoding R86). -/
theorem event_move {i : Instr} (hi : i.language = .event) (h : exec i s = .next t) : PortMove host s t := by
  cases i with
  | rxByte d => exact execRxByte_move h
  | rxTerr e => exact execRxTerr_move h
  | txTake => exact execTxTake_move h
  | txTerr e => exact execTxTerr_move h
  | rxTimeout => exact execRxTimeout_move h
  | tRead ch n => exact .quiet (execTRead_quiet h)
  | tWrite ch data => exact .quiet (execTWrite_quiet h)
  | srvDispatch => exact execSrvDispatch_move h
  | _ => cases hi

end

/-- Every step that is no RESET. -/
theorem step_move {s t : State} (hs : s.settled) (h : step s = .next t) (hreset : s.sched.head? ≠ some .reset) :
    PortMove (s.sched.head? = some (.take .host)) s t := by
  cases step_cases hs h with
  | wait next => exact next ▸ .quiet (.wait s)
  | reset turn next => exact absurd turn hreset
  | badCommand turn next => exact next ▸ .quiet (.raised ..)
  | command i turn lang next => exact command_move turn lang next
  | event p i turn notHost port next => exact event_move (event_of_portOf notHost port) next

/-! ### The buffer bound (43_frame_sync R192) -/

/-- After a scan that waits the buffer is shorter than the largest frame. -/
theorem ScanStep.bounded {s t : State} (h : ScanStep s t) (hwf : s.cfg.wf) (hrx : t.rxState = .readingMore) :
    t.rxBuf.length ≤ t.cfg.maxPayload + 10 := by
  cases h.outcome with
  | waits state short out =>
    have hlen := decodeFrame_short short
    rw [h.cfg]
    obtain ⟨hmin, -⟩ := hwf
    omega
  | toHost state out => simp [state] at hrx
  | toServer state owner out => simp [state] at hrx

theorem RxKept.bounded {s t : State} (h : RxKept s t)
    (hs : s.rxState = .readingMore → s.rxBuf.length ≤ s.cfg.maxPayload + 10) (hrx : t.rxState = .readingMore) :
    t.rxBuf.length ≤ t.cfg.maxPayload + 10 := by
  rw [h.rxBuf, h.cfg]
  exact hs (h.rxState ▸ hrx)

/-- Settles O18: only a scan fills the buffer, and it waits only on the beginning of a candidate. -/
theorem receiveBufferBound : Obligations.ReceiveBufferBound := by
  refine ⟨fun c => ⟨Nat.lt_succ_self _, Nat.zero_le _⟩, fun s t hwf hset hs hstep hrx => ?_⟩
  by_cases hreset : s.sched.head? = some .reset
  · obtain ⟨r, hsched⟩ := List.head?_eq_some_iff.mp hreset
    rw [step_of_reset hset hsched] at hstep
    cases hstep
    cases hrx
  cases step_move hset hstep hreset with
  | quiet same => exact same.toRxKept.bounded hs hrx
  | readEnds pending state tx out => simp [state] at hrx
  | scans u scan start cfg tx out => exact scan.bounded (cfg ▸ hwf) hrx
  | txStarts start rx state out => exact rx.bounded hs hrx
  | txEnds start rx state out => exact rx.bounded hs hrx
  | unitArms u scan cause cfg => exact scan.bounded (cfg ▸ hwf) hrx
  | unitReplies cause rx => exact rx.bounded hs hrx

/-! ### One completion per operation (43_frame_sync R198, 42_frame_codec R169) -/

/-- A read or a transmission is pending. -/
def State.pending (s : State) : CompletionPort → Bool
  | .rx => s.rxState == .readingMore
  | .tx => s.txState == .busy

/-- What a step may make of a port's operation: pending before, pending after, completed. Only the host's turn completes
one that never was pending. -/
inductive OneCompletion (host : Prop) : Bool → Bool → Bool → Prop where
  | kept (b : Bool) : OneCompletion host b b false
  | started : OneCompletion host false true false
  | ended : OneCompletion host true false true
  | atOnce (turn : host) : OneCompletion host false false true

theorem completed_of_none {s : State} (h : s.completion = none) (p : CompletionPort) : s.completed p = false := by
  rw [State.completed, h]

theorem completed_of_outputs {s : State} {p : CompletionPort} (h : s.outputs p) (q : CompletionPort) :
    s.completed q = (p == q) := by
  obtain ⟨st, d, h⟩ := h
  rw [State.completed, h]

/-- A read and a transmission have no state between idle and pending (10_state R25, R27). -/
theorem rx_idle_iff {s : State} (hs : s.settled) : s.rxState = .idle ↔ s.pending .rx = false := by
  obtain ⟨-, hscan, -⟩ := hs
  cases hrx : s.rxState <;> simp_all [State.pending]

theorem rx_pending_iff {s : State} : s.rxState = .readingMore ↔ s.pending .rx = true := by simp [State.pending]

theorem tx_idle_iff {s : State} : s.txState = .idle ↔ s.pending .tx = false := by
  cases htx : s.txState <;> simp [State.pending, htx]

theorem tx_pending_iff {s : State} : s.txState = .busy ↔ s.pending .tx = true := by simp [State.pending]

section
variable {host : Prop} {s t : State}

/-- What a step makes of both ports' operations. -/
abbrev OneCompletions (host : Prop) (s t : State) : Prop :=
  ∀ p, OneCompletion host (s.pending p) (t.pending p) (t.completed p)

/-- A port that does not move while the other outputs at most its own completion. -/
theorem OneCompletion.same {p : CompletionPort} (hpending : t.pending p = s.pending p) (hout : t.completed p = false) :
    OneCompletion host (s.pending p) (t.pending p) (t.completed p) := by
  rw [hpending, hout]
  exact .kept _

theorem ScanStep.oneCompletion {u : State} (h : ScanStep u t) (hout : u.completion = none)
    (start : (s.pending .rx = true ∧ u.rxOwner = .host) ∨ (s.pending .rx = false ∧ host)) :
    OneCompletion host (s.pending .rx) (t.pending .rx) (t.completed .rx) := by
  cases h.outcome with
  | waits state short out =>
    rw [rx_pending_iff.mp state, completed_of_none (out.trans hout)]
    obtain ⟨hbefore, -⟩ | ⟨hbefore, -⟩ := start
    · rw [hbefore]
      exact .kept _
    · rw [hbefore]
      exact .started
  | toHost state out =>
    have hafter : t.pending .rx = false := by simp [State.pending, state]
    rw [hafter, completed_of_outputs out]
    obtain ⟨hbefore, -⟩ | ⟨hbefore, turn⟩ := start
    · rw [hbefore]
      exact .ended
    · rw [hbefore]
      exact .atOnce turn
  | toServer state owner out =>
    have hafter : t.pending .rx = false := by simp [State.pending, state]
    rw [hafter, completed_of_none (out.trans hout)]
    obtain ⟨-, howner⟩ | ⟨hbefore, -⟩ := start
    · rw [howner] at owner
      cases owner
    · rw [hbefore]
      exact .kept _

/-- A scan does not touch the transmission. -/
theorem ScanStep.tx_quiet {u : State} (h : ScanStep u t) (hout : u.completion = none) : t.completed .tx = false := by
  cases h.outcome with
  | waits state short out => exact completed_of_none (out.trans hout) .tx
  | toHost state out => exact completed_of_outputs out .tx
  | toServer state owner out => exact completed_of_none (out.trans hout) .tx

/-- Every move keeps one completion per operation while the dispatch unit has nothing to go on with and the reads are
the host's. -/
theorem PortMove.oneCompletion (h : PortMove host s t) (hunit : ¬s.unitActs)
    (howner : s.rxState = .readingMore → s.rxOwner = .host) : OneCompletions host s t := by
  have rx_same (rx : t.rxState = s.rxState) : t.pending .rx = s.pending .rx := by simp [State.pending, rx]
  have tx_same (tx : t.txState = s.txState) : t.pending .tx = s.pending .tx := by simp [State.pending, tx]
  intro p
  cases h with
  | unitArms u scan cause cfg => exact absurd cause hunit
  | unitReplies cause rx => exact absurd cause hunit
  | quiet same =>
    cases p with
    | rx => exact .same (rx_same same.rxState) (completed_of_none same.out _)
    | tx => exact .same (tx_same same.txState) (completed_of_none same.out _)
  | readEnds pending state tx out =>
    cases p with
    | rx =>
      have hafter : t.pending .rx = false := by simp [State.pending, state]
      rw [rx_pending_iff.mp pending, hafter, completed_of_outputs out]
      exact .ended
    | tx => exact .same (tx_same tx) (completed_of_outputs out _)
  | scans u scan start cfg tx out =>
    cases p with
    | rx =>
      refine scan.oneCompletion out (start.imp ?_ ?_)
      · exact fun ⟨hrx, hsame⟩ => ⟨rx_pending_iff.mp hrx, hsame.trans (howner hrx)⟩
      · exact fun ⟨hrx, turn⟩ => ⟨by simp [State.pending, hrx], turn⟩
    | tx => exact .same (tx_same (scan.txState.trans tx)) (scan.tx_quiet out)
  | txStarts start rx state out =>
    cases p with
    | rx => exact .same (rx_same rx.rxState) (completed_of_none out _)
    | tx =>
      rw [tx_idle_iff.mp start, tx_pending_iff.mp state, completed_of_none out]
      exact .started
  | txEnds start rx state out =>
    cases p with
    | rx => exact .same (rx_same rx.rxState) (completed_of_outputs out _)
    | tx =>
      rw [tx_idle_iff.mp state, completed_of_outputs out]
      obtain hbusy | ⟨hidle, turn⟩ := start
      · rw [tx_pending_iff.mp hbusy]
        exact .ended
      · rw [tx_idle_iff.mp hidle]
        exact .atOnce turn

/-- The three clauses of R198 and R169 for a port. -/
theorem OneCompletion.clauses {before after out : Bool} (h : OneCompletion host before after out) :
    (before = true → (after = true ∧ out = false) ∨ (after = false ∧ out = true)) ∧
      (before = false → out = true → after = false ∧ host) ∧ (before = false → after = true → out = false) := by
  cases h with
  | kept => cases before <;> simp
  | started => simp
  | ended => simp
  | atOnce turn => simp [turn]

end

/-- While the dispatch unit is disabled it has nothing to go on with (45_dispatch R280). -/
theorem State.Inv.unit_idle {s : State} (h : s.Inv) (hen : s.srvEn = false) : ¬s.unitActs := by
  obtain ⟨hidle, hrx, htx⟩ := h.srvOff hen
  rintro (⟨hpending, howner⟩ | ⟨hpending, howner⟩ | hsrv)
  · simp [hrx hpending] at howner
  · simp [htx hpending] at howner
  · simp [hidle] at hsrv

/-- Settles O26: every move of the ports keeps R198 and R169; the disabled dispatch unit makes no move. -/
theorem oneCompletionPerOperation : Obligations.OneCompletionPerOperation := by
  intro s t h hen hstep hreset
  obtain ⟨-, howner, -⟩ := h.srvOff hen
  have hports := (step_move h.settled hstep hreset).oneCompletion (h.unit_idle hen) howner
  obtain ⟨hrx, hrxOnce, hrxStart⟩ := (hports .rx).clauses
  obtain ⟨htx, htxOnce, htxStart⟩ := (hports .tx).clauses
  simp only [rx_idle_iff h.settled, rx_idle_iff (invStep s t h hstep).settled, rx_pending_iff, tx_idle_iff,
    tx_pending_iff]
  exact ⟨hrx, hrxOnce, hrxStart, htx, htxOnce, htxStart⟩

end Sys2Proof.Machine
end

section
/-! `scan()` against R181's loop, and that within one read it does not matter how the bytes are cut (43_frame_sync R181,
R193). The idea: more bytes at the end change no pass of the loop but one that needs more bytes, so a scan of all bytes
goes on where the scan of the first ones stopped. -/

namespace Sys2Proof.Machine

/-- Settles O44: `scanLoop_eq_scanText`, from the whole buffer and no mismatch counted. -/
theorem scanRefines : Obligations.ScanRefines := fun _ hrx hcap => scan_eq_scanned hrx hcap

/-! ### More bytes behind a candidate -/

/-- The bytes after a frame's addresses: where its length, payload and CRC fields are there, or the length is too large,
more bytes only stay over (30_encoding R80). -/
theorem decodeFrame_append_fields {c : Config} {src dst : Byte} {b : List Byte}
    (h : decodeFrame c (0x54#8 :: 0xAB#8 :: src :: dst :: b) ≠ .error .short) (ds : List Byte) :
    decodeFrame c (0x54#8 :: 0xAB#8 :: src :: dst :: (b ++ ds)) =
      (decodeFrame c (0x54#8 :: 0xAB#8 :: src :: dst :: b)).map fun r => (r.1, r.2 ++ ds) := by
  cases hlen : takeVar c b with
  | none => exact absurd (by simp [decodeFrame, hlen]) h
  | some r =>
    obtain ⟨len, t⟩ := r
    have hlen' := takeVar_append (t := ds) hlen
    by_cases hmax : c.maxPayload < len.value.toNat
    · simp [decodeFrame, hlen, hlen', hmax, Except.map]
    · by_cases hroom : t.length < len.value.toNat + 2
      · exact absurd (by simp [decodeFrame, hlen, hmax, hroom]) h
      · have hroom' : ¬t.length + ds.length < len.value.toNat + 2 := by omega
        have hpayload : (t ++ ds).take len.value.toNat = t.take len.value.toNat :=
          List.take_append_of_le_length (by omega)
        have hrest : (t ++ ds).drop (len.value.toNat + 2) = t.drop (len.value.toNat + 2) ++ ds :=
          List.drop_append_of_le_length (by omega)
        have hcrc : rd16 ((t ++ ds).drop len.value.toNat) = rd16 (t.drop len.value.toNat) :=
          readsFront16.drop ds (by omega)
        simp [decodeFrame, hlen, hlen', hmax, hroom, hroom', hpayload, hrest, hcrc, Except.map]

/-- A decoded frame does not depend on the bytes after it, nor does the refusal of a candidate (30_encoding R80). -/
theorem decodeFrame_append {c : Config} {b : List Byte} (h : decodeFrame c b ≠ .error .short) (ds : List Byte) :
    decodeFrame c (b ++ ds) = (decodeFrame c b).map fun r => (r.1, r.2 ++ ds) := by
  match b with
  | [] => exact absurd rfl h
  | x :: b =>
    by_cases hx : x = 0x54#8
    · subst hx
      match b with
      | [] => exact absurd rfl h
      | y :: b =>
        by_cases hy : y = 0xAB#8
        · subst hy
          match b with
          | [] | [_] => exact absurd rfl h
          | src :: dst :: b => exact decodeFrame_append_fields h ds
        · simp [decodeFrame, hy, Except.map]
    · simp [decodeFrame, hx, Except.map]

/-- A candidate that is refused has both bytes of a header, or what stands there instead (43_frame_sync R183, R186). -/
theorem two_le_of_refused {c : Config} {b : List Byte} {e : DecodeError} (he : e ≠ .short)
    (hdec : decodeFrame c (0x54#8 :: b) = .error e) : 2 ≤ (0x54#8 :: b).length := by
  match b with
  | [] => exact absurd (Except.error.inj hdec).symm he
  | _ :: _ => simp

/-! ### The whole scan -/

/-- R181's loop run to its end. -/
def scanAll (c : Config) (b : List Byte) (k : Nat) : ScanEnd := scanText c (b.length + 1) b k

/-- One pass of R181's loop on a buffer, with any bytes `ds` behind it: it waits and then the search is not made again,
it goes on behind discarded bytes with `j` mismatches more, or it delivers. -/
inductive ScanPass (c : Config) (b : List Byte) : Prop where
  | waits (b' : List Byte) (head : b'.head?.getD 0x54#8 = 0x54#8) (short : decodeFrame c b' = .error .short)
      (here : ∀ n k, scanText c (n + 1) b k = .needMore b' k)
      (more : ∀ ds n k, scanText c (n + 1) (b ++ ds) k = scanText c (n + 1) (b' ++ ds) k)
  | discards (b' : List Byte) (j : Nat) (less : b'.length < b.length)
      (more : ∀ ds n k, scanText c (n + 1) (b ++ ds) k = scanText c n (b' ++ ds) (k + j))
  | delivers (b' : List Byte) (total : Nat) (len : Word) (size : Nat) (payload : 4 + size + len.toNat ≤ total)
      (whole : total ≤ b'.length)
      (more : ∀ ds n k, scanText c (n + 1) (b ++ ds) k = .delivered total len size (b' ++ ds) k)

/-- The header search may be made before more bytes come (43_frame_sync R182). -/
theorem scanText_dropWhile_append (c : Config) (b ds : List Byte) (n k : Nat) :
    scanText c (n + 1) (b.dropWhile (fun x => x != 0x54#8) ++ ds) k = scanText c (n + 1) (b ++ ds) k := by
  induction b with
  | nil => rfl
  | cons x b ih =>
    by_cases hx : x = 0x54#8
    · simp [hx]
    · rw [List.dropWhile_cons_of_pos (by simpa using hx), ih, List.cons_append, scanText_skip c n _ k hx]

/-- A pass on a buffer that begins with the header's low byte. -/
theorem scanPass_header (c : Config) (b : List Byte) : ScanPass c (0x54#8 :: b) := by
  cases hdec : decodeFrame c (0x54#8 :: b) with
  | error e =>
    by_cases he : e = .short
    · subst he
      refine .waits _ rfl hdec (fun n k => ?_) fun _ _ _ => rfl
      rw [scanText_header, scanTextPass, hdec]
    · have htwo := two_le_of_refused he hdec
      refine .discards ((0x54#8 :: b).drop 2) 0 (by rw [List.length_drop]; omega) fun ds n k => ?_
      have hmore := decodeFrame_append (by rw [hdec]; simpa using he) ds
      rw [hdec] at hmore
      rw [← List.drop_append_of_le_length htwo, List.cons_append, scanText_header]
      exact scanTextPass_of_discard he hmore n k
  | ok r =>
    obtain ⟨i, rest⟩ := r
    obtain ⟨src, dst, len, t, hbytes, -, -, hroom, rfl, -⟩ := decodeFrame_ok hdec
    have hlen : (0x54#8 :: b).length = t.length + 4 := by rw [hbytes]; rfl
    have hpayload : ((t.drop len.size).take len.value.toNat).length = len.value.toNat := by
      rw [List.length_take, List.length_drop]
      omega
    have hmore (ds : List Byte) := decodeFrame_append (c := c) (b := 0x54#8 :: b) (by simp [hdec]) ds
    have hcovered (ds : List Byte) : (0x54#8 :: b ++ ds).take (4 + len.size + len.value.toNat) =
        (0x54#8 :: b).take (4 + len.size + len.value.toNat) := List.take_append_of_le_length (by omega)
    simp only [hdec] at hmore
    by_cases hcrc : fcs c ((0x54#8 :: b).take (4 + len.size + len.value.toNat)) =
        rd16 (t.drop (len.size + len.value.toNat))
    · refine .delivers (0x54#8 :: b) (4 + len.size + len.value.toNat + 2) len.value len.size (by omega) (by omega)
        fun ds n k => ?_
      rw [List.cons_append, scanText_header, ← List.cons_append, scanTextPass, hmore]
      simp only [Except.map, hpayload, hcovered]
      rw [if_neg (not_not_intro hcrc)]
    · refine .discards ((0x54#8 :: b).drop 2) 1 (by rw [List.length_drop]; omega) fun ds n k => ?_
      rw [← List.drop_append_of_le_length (by omega), List.cons_append, scanText_header, ← List.cons_append,
        scanTextPass, hmore]
      simp only [Except.map, hpayload, hcovered]
      rw [if_pos hcrc]

/-- Every pass of R181's loop. -/
theorem scanPass_cases (c : Config) (b : List Byte) : ScanPass c b := by
  obtain ⟨hsuffix, hhead⟩ := header_search b
  have hlen := hsuffix.length_le
  have hsearch := scanText_dropWhile_append c b
  cases hb : b.dropWhile (fun x => x != 0x54#8) with
  | nil =>
    rw [hb] at hsearch
    refine .waits [] rfl rfl (fun n k => ?_) fun ds n k => (hsearch ds n k).symm
    rw [scanText_pass, hb]
    rfl
  | cons x t =>
    rw [hb] at hsearch hhead hlen
    obtain rfl : x = 0x54#8 := hhead
    cases scanPass_header c t with
    | waits b' head short here more =>
      refine .waits b' head short (fun n k => ?_) fun ds n k => (hsearch ds n k).symm.trans (more ds n k)
      rw [scanText_pass, hb, ← scanText_header, here]
    | discards b' j less more =>
      exact .discards b' j (less.trans_le hlen) fun ds n k => (hsearch ds n k).symm.trans (more ds n k)
    | delivers b' total len size payload whole more =>
      exact .delivers b' total len size payload whole fun ds n k => (hsearch ds n k).symm.trans (more ds n k)

/-- More passes than bytes make no difference. -/
theorem scanText_fuel (c : Config) {n m : Nat} {b : List Byte} (hn : b.length < n) (hm : b.length < m) (k : Nat) :
    scanText c n b k = scanText c m b k := by
  induction n generalizing m b k with
  | zero => omega
  | succ n ih =>
    obtain ⟨m, rfl⟩ : ∃ m', m = m' + 1 := ⟨m - 1, by omega⟩
    cases scanPass_cases c b with
    | waits b' head short here more => rw [here, here]
    | discards b' j less more =>
      have hpass (n : Nat) : scanText c (n + 1) b k = scanText c n b' (k + j) := by simpa using more [] n k
      rw [hpass, hpass]
      exact ih (by omega) (by omega) _
    | delivers b' total len size payload whole more =>
      have hpass (n : Nat) : scanText c (n + 1) b k = .delivered total len size b' k := by simpa using more [] n k
      rw [hpass, hpass]

theorem scanText_eq_scanAll (c : Config) {n : Nat} {b : List Byte} (hn : b.length < n) (k : Nat) :
    scanText c n b k = scanAll c b k := scanText_fuel c hn (Nat.lt_succ_self _) k

/-- The scan goes on with the bytes that come after it ended: it searches on, or leaves them behind a delivered
candidate. -/
def ScanEnd.goOn (c : Config) (ds : List Byte) : ScanEnd → ScanEnd
  | .needMore b k => scanAll c (b ++ ds) k
  | .delivered total len size b k => .delivered total len size (b ++ ds) k

/-- A scan is its first pass and the scan after it. -/
theorem scanAll_eq_pass (c : Config) {b b' : List Byte} {k k' : Nat} (hlen : b'.length ≤ b.length)
    (hpass : ∀ n, scanText c (n + 1) b k = scanText c n b' k') : scanAll c b k = scanAll c b' k' := by
  rw [← scanText_eq_scanAll c (n := b.length + 1 + 1) (by omega), hpass]
  exact scanText_eq_scanAll c (by omega) k'

/-- A scan of all bytes is a scan of the first ones that goes on with the rest (43_frame_sync R193). -/
theorem scanAll_append (c : Config) (b ds : List Byte) (k : Nat) :
    scanAll c (b ++ ds) k = (scanAll c b k).goOn c ds := by
  induction hb : b.length using Nat.strong_induction_on generalizing b k with
  | h n ih =>
    subst hb
    cases scanPass_cases c b with
    | waits b' head short here more =>
      have hsame : scanAll c (b ++ ds) k = scanAll c (b' ++ ds) k := by
        rw [← scanText_eq_scanAll c (n := (b ++ ds).length + (b' ++ ds).length + 1) (by omega), more]
        exact scanText_eq_scanAll c (by omega) k
      rw [hsame, scanAll, scanAll, here]
      rfl
    | discards b' j less more =>
      have hfirst : scanAll c b k = scanAll c b' (k + j) :=
        scanAll_eq_pass c less.le fun n => by simpa using more [] n k
      have hall : scanAll c (b ++ ds) k = scanAll c (b' ++ ds) (k + j) :=
        scanAll_eq_pass c (by simpa using less.le) fun n => more ds n k
      rw [hall, hfirst]
      exact ih _ less _ _ rfl
    | delivers b' total len size payload whole more =>
      have hfirst : scanAll c b k = .delivered total len size b' k := by simpa [scanAll] using more [] b.length k
      rw [scanAll, more, hfirst]
      rfl

/-- How a scan may end: on the beginning of a candidate, or with a candidate all of whose bytes are there. -/
def ScanEnd.sound (c : Config) : ScanEnd → Prop
  | .needMore b _ => b.head?.getD 0x54#8 = 0x54#8 ∧ decodeFrame c b = .error .short
  | .delivered total len size b _ => 4 + size + len.toNat ≤ total ∧ total ≤ b.length

theorem scanAll_sound (c : Config) (b : List Byte) (k : Nat) : (scanAll c b k).sound c := by
  induction hb : b.length using Nat.strong_induction_on generalizing b k with
  | h n ih =>
    subst hb
    cases scanPass_cases c b with
    | waits b' head short here more =>
      rw [scanAll, here]
      exact ⟨head, short⟩
    | discards b' j less more =>
      rw [scanAll_eq_pass c less.le fun n => by simpa using more [] n k]
      exact ih _ less _ _ rfl
    | delivers b' total len size payload whole more =>
      have hfirst : scanAll c b k = .delivered total len size b' k := by simpa [scanAll] using more [] b.length k
      rw [hfirst]
      exact ⟨payload, whole⟩

/-- A buffer on which a read waits needs more bytes (43_frame_sync R184, R187). -/
theorem scanAll_of_waiting {s : State} (h : s.rxWaiting) (k : Nat) :
    scanAll s.cfg s.rxBuf k = .needMore s.rxBuf k := by
  obtain ⟨hhead, hshort⟩ := h
  cases hb : s.rxBuf with
  | nil => rfl
  | cons x b =>
    rw [hb] at hhead hshort
    obtain rfl : x = 0x54#8 := hhead
    rw [scanAll, scanText_header, scanTextPass, hshort]

/-! ### The state after a scan -/

theorem scanned_eq (s : State) : s.scanned = s.afterScan (scanAll s.cfg s.rxBuf 0) := rfl

/-- The scan sets the buffer and the state of the read whatever they were. -/
theorem afterScan_start (s : State) (b : List Byte) (x : RxState) (e : ScanEnd) :
    ({ s with rxBuf := b, rxState := x } : State).afterScan e = s.afterScan e := by
  cases e with
  | needMore => rfl
  | delivered => rfl

/-- A scan that needs no byte more and counts nothing leaves a pending read as it is. -/
theorem afterScan_waiting {s : State} (hrx : s.rxState = .readingMore) : s.afterScan (.needMore s.rxBuf 0) = s := by
  rw [State.afterScan, ← hrx]
  rfl

/-- A scan does not look at turns and offers. -/
theorem afterScan_turns (s : State) (os : List Offer) (ms : List Move) (e : ScanEnd) :
    ({ s with offers := os, sched := ms } : State).afterScan e = { s.afterScan e with offers := os, sched := ms } := by
  cases e with
  | needMore => rfl
  | delivered => rfl

/-- Bytes behind a delivered candidate stay in the buffer (43_frame_sync R189). -/
theorem afterScan_delivered_append (s : State) {total size : Nat} {len : Word} {b : List Byte} (ds : List Byte)
    (k : Nat) (hpayload : 4 + size + len.toNat ≤ total) (hwhole : total ≤ b.length) :
    s.afterScan (.delivered total len size (b ++ ds) k) =
      { s.afterScan (.delivered total len size b k) with rxBuf := b.drop total ++ ds } := by
  have hsource : rd8 ((b ++ ds).drop 2) = rd8 (b.drop 2) := readsFront8.drop ds (by omega)
  have hdest : rd8 ((b ++ ds).drop 3) = rd8 (b.drop 3) := readsFront8.drop ds (by omega)
  have hkept : ((b ++ ds).drop (4 + size)).take (min len.toNat s.rxCap) =
      (b.drop (4 + size)).take (min len.toNat s.rxCap) := by
    rw [List.drop_append_of_le_length (by omega)]
    exact List.take_append_of_le_length (by rw [List.length_drop]; omega)
  have hrest : (b ++ ds).drop total = b.drop total ++ ds := List.drop_append_of_le_length hwhole
  simp only [State.afterScan, hsource, hdest, hkept, hrest]

/-- A scan that goes on counts its mismatches on top of those already counted (43_frame_sync R188). -/
theorem afterScan_needMore_afterScan {s : State} (hcap : s.rxOwner = .host ∨ s.cfg.maxPayload ≤ s.rxCap)
    (b b' : List Byte) (k : Nat) :
    (s.afterScan (.needMore b k)).afterScan (scanAll s.cfg b' 0) = s.afterScan (scanAll s.cfg b' k) := by
  have hresumed := scanLoop_eq_scanText (s := { s with rxState := .awaitFrame }) rfl hcap (Nat.lt_succ_self b'.length) k
  have hanew := scan_eq_scanned (s := State.scanAt { s with rxState := .awaitFrame } b' k) rfl hcap
  have hsame := Host.Outcome.next.inj (hanew.symm.trans hresumed)
  rw [scanned_eq] at hsame
  have hstart := afterScan_start (s.afterScan (.needMore b k)) b' .awaitFrame (scanAll s.cfg b' 0)
  have hstart' := afterScan_start s s.rxBuf .awaitFrame (scanAll s.cfg b' k)
  exact hstart.symm.trans (hsame.trans hstart')

/-! ### Bytes delivered one at a time -/

/-- `t` with the bytes `left` that the transport still holds is `u`, but for turns and offers. -/
structure FedUpTo (t u : State) (left : List Byte) : Prop where
  bytes : t.rxBuf ++ left = u.rxBuf
  frame : t = { u with rxBuf := t.rxBuf, offers := t.offers, sched := t.sched }

/-- A scan in a state without outputs may be made before the transport's turn. -/
theorem FedUpTo.of_accept {s t : State} {p : Port} {left : List Byte} {e : ScanEnd} (hresult : s.result = .none)
    (hout : s.completion = none) (h : FedUpTo t ((s.accept p).afterScan e) left) : FedUpTo t (s.afterScan e) left := by
  have haccept : s.accept p = { s with offers := dropOffer p s.offers, sched := s.sched.tail } := by
    rw [State.accept, ← hresult, ← hout]
  rw [haccept, afterScan_turns] at h
  exact ⟨h.bytes, h.frame⟩

theorem feedRun_idle {s : State} (hrx : s.rxState ≠ .readingMore) (ds : List Byte) : feedRun ds s = some (s, ds) := by
  cases ds with
  | nil => rfl
  | cons d ds => exact if_pos hrx

/-- A byte that a pending read takes (43_frame_sync R191). -/
theorem feedRun_cons {s : State} (d : Byte) (ds : List Byte) (hrx : s.rxState = .readingMore)
    (hroom : s.rxBuf.length < s.cfg.rxBufSize) (hcap : s.rxOwner = .host ∨ s.cfg.maxPayload ≤ s.rxCap) :
    feedRun (d :: ds) s = feedRun ds ((s.accept .transportRx).afterScan (scanAll s.cfg (s.rxBuf ++ [d]) 0)) := by
  have hexec := receiveByte s d hrx hroom hcap
  rw [scanned_eq] at hexec
  have hstart := afterScan_start (s.accept .transportRx) (s.rxBuf ++ [d]) .awaitFrame
    (scanAll s.cfg (s.rxBuf ++ [d]) 0)
  rw [feedRun, if_neg (not_not_intro hrx), hexec]
  exact congrArg (feedRun ds) hstart

/-- The bytes of a string delivered one at a time lead where one scan of all of them leads. -/
theorem feedRun_scans (ds : List Byte) {s : State} (hwf : s.cfg.wf) (hok : s.rxOk) (hrx : s.rxState = .readingMore)
    (hcap : s.rxOwner = .host ∨ s.cfg.maxPayload ≤ s.rxCap) (hresult : s.result = .none) (hout : s.completion = none) :
    ∃ t left, feedRun ds s = some (t, left) ∧ FedUpTo t (s.afterScan (scanAll s.cfg (s.rxBuf ++ ds) 0)) left := by
  induction ds generalizing s with
  | nil =>
    obtain ⟨-, -, hwaiting⟩ := hok
    rw [List.append_nil, scanAll_of_waiting (hwaiting hrx), afterScan_waiting hrx]
    exact ⟨s, [], rfl, List.append_nil _, rfl⟩
  | cons d ds ih =>
    obtain ⟨hbuf, hcapOk, -⟩ := hok
    have hroom : s.rxBuf.length < s.cfg.rxBufSize := Nat.lt_succ_of_le hbuf
    have hall : scanAll s.cfg (s.rxBuf ++ d :: ds) 0 = (scanAll s.cfg (s.rxBuf ++ [d]) 0).goOn s.cfg ds := by
      rw [← scanAll_append, List.append_assoc, List.singleton_append]
    have hsound := scanAll_sound s.cfg (s.rxBuf ++ [d]) 0
    rw [feedRun_cons d ds hrx hroom hcap, hall]
    cases hend : scanAll s.cfg (s.rxBuf ++ [d]) 0 with
    | needMore b k =>
      rw [hend] at hsound
      have ⟨_, hdec⟩ := hsound
      have ⟨hmin, _⟩ := hwf
      have hshort := decodeFrame_short hdec
      have hlen : b.length ≤ s.cfg.maxPayload + 10 := by omega
      obtain ⟨t, left, hrun, hfed⟩ := ih (s := (s.accept .transportRx).afterScan (.needMore b k)) hwf
        ⟨hlen, hcapOk, fun _ => hsound⟩ rfl hcap rfl rfl
      have hresume := afterScan_needMore_afterScan (s := s.accept .transportRx) hcap b (b ++ ds) k
      exact ⟨t, left, hrun, .of_accept hresult hout (hresume ▸ hfed)⟩
    | delivered total len size b k =>
      rw [hend] at hsound
      obtain ⟨hpayload, hwhole⟩ := hsound
      refine ⟨_, ds, feedRun_idle (nofun : RxState.idle ≠ .readingMore) ds,
        .of_accept (p := .transportRx) hresult hout ?_⟩
      rw [ScanEnd.goOn, afterScan_delivered_append _ ds k hpayload hwhole]
      exact ⟨rfl, rfl⟩

/-- Settles O45: by `feedRun_scans`, and the scan of the whole string is R181's loop. -/
theorem chunkingIndependence : Obligations.ChunkingIndependence := by
  intro s ds hwf hok hrx hcap hresult hout
  obtain ⟨t, left, hrun, hbytes, hframe⟩ := feedRun_scans ds hwf hok hrx hcap hresult hout
  have hscan := scan_eq_scanned (s := { s with rxBuf := s.rxBuf ++ ds, rxState := .awaitFrame }) rfl hcap
  rw [scanned_eq, afterScan_start] at hscan
  exact ⟨t, _, left, hrun, hscan, hbytes, hframe⟩

end Sys2Proof.Machine
end

section
/-! The reply parser (44_subframe_codec R225 to R262): its map, what a subframe does when it meets one, and the loop over a
payload that begins with the encodings of reply and error subframes. -/

namespace Sys2Proof.Machine

/-! ### The reply map (10_state R39, 44_subframe_codec R261) -/

/-- An insertion changes what its own register holds, and nothing else. -/
theorem rpLookup_rpInsert (reg r : Word) (e : RpEntry) (m : List (Word × RpEntry)) :
    rpLookup reg (rpInsert r e m) = if r = reg then some e else rpLookup reg m := by
  induction m with
  | nil => rfl
  | cons b m ih =>
    obtain ⟨q, d⟩ := b
    by_cases hlt : r.toNat < q.toNat
    · simp only [rpInsert, if_pos hlt, rpLookup]
    · by_cases heq : r = q
      · subst heq
        simp only [rpInsert, Nat.lt_irrefl, if_false, if_true, rpLookup]
        split <;> rfl
      · simp only [rpInsert, if_neg hlt, if_neg heq, rpLookup, ih]
        by_cases hq : q = reg
        · simp only [hq, if_true, if_neg (hq ▸ heq)]
        · simp only [if_neg hq]

theorem recordAll_append (m es fs : List (Word × RpEntry)) :
    recordAll m (es ++ fs) = recordAll (recordAll m es) fs := List.foldl_append

/-- A register holds the last entry recorded for it. -/
theorem rpLookup_recordAll (m es : List (Word × RpEntry)) (reg : Word) :
    rpLookup reg (recordAll m es) =
      ((es.reverse.find? (fun e => e.1 == reg)).map Prod.snd).or (rpLookup reg m) := by
  induction es using List.reverseRecOn with
  | nil => rfl
  | append_singleton es e ih =>
    have hlast : recordAll m (es ++ [e]) = rpInsert e.1 e.2 (recordAll m es) := recordAll_append m es [e]
    rw [hlast, rpLookup_rpInsert, List.reverse_concat, List.find?_cons]
    cases he : e.1 == reg with
    | true => rw [if_pos (eq_of_beq he)]; rfl
    | false => rw [if_neg (ne_of_beq_false he), ih]

theorem recordAll_sorted {m : List (Word × RpEntry)} (es : List (Word × RpEntry)) (h : rpSorted m) :
    rpSorted (recordAll m es) := by
  induction es generalizing m with
  | nil => exact h
  | cons e es ih => exact ih (rpInsert_sorted e.1 e.2 m h)

/-- Settles O35: an insertion changes one register, and the last of them decides. -/
theorem replyMapLastWins : Obligations.ReplyMapLastWins := by
  intro m es reg
  refine ⟨?_, recordAll_sorted es⟩
  rw [rpLookup_recordAll]
  cases es.reverse.find? (fun e => e.1 == reg) <;> rfl

/-! ### One subframe (44_subframe_codec R225 to R244) -/

/-- The values of a reply subframe are entries recorded in register order (44_subframe_codec R225). -/
theorem rpInsertRun_eq_recordAll (reg : Word) (vals : List Value) (m : List (Word × RpEntry)) :
    rpInsertRun reg vals m = recordAll m ((writesOf reg vals).map (fun w => (w.reg, .val w.value))) := by
  induction vals generalizing reg m with
  | nil => rfl
  | cons v vals ih =>
    rw [writesOf_cons]
    exact ih (reg + 1#32) (rpInsert reg (.val v) m)

theorem recordsOf_of_replyView {i : Instr} {reg : Word} {vals : List Value} (h : i.replyView = some (reg, vals)) :
    recordsOf i = some ((writesOf reg vals).map (fun w => (w.reg, .val w.value))) := by
  unfold recordsOf
  rw [h]

theorem recordsOf_of_writeView {i : Instr} {p : Word × List Value} (h : i.writeView = some p) : recordsOf i = none := by
  cases i <;> first | rfl | cases h

theorem recordsOf_of_readView {i : Instr} {p : VType × Nat × Word} (h : i.readView = some p) : recordsOf i = none := by
  cases i <;> first | rfl | cases h

/-- What is recorded is a subframe. -/
theorem language_of_recordsOf {i : Instr} {es : List (Word × RpEntry)} (h : recordsOf i = some es) :
    i.language = .subframe := by
  cases i <;> first | rfl | cases h

/-- What the reply parser makes of a subframe: it records the entries and passes it, or the parse ends at it. -/
def replyPass (i : Instr) (s : State) : State :=
  match recordsOf i with
  | some es => replyAdvance i.size { s with rpMap := recordAll s.rpMap es }
  | none => replyStop s

theorem replyPass_of_some {i : Instr} {es : List (Word × RpEntry)} (h : recordsOf i = some es) (s : State) :
    replyPass i s = replyAdvance i.size { s with rpMap := recordAll s.rpMap es } := by
  unfold replyPass
  rw [h]

theorem replyPass_of_none {i : Instr} (h : recordsOf i = none) (s : State) : replyPass i s = replyStop s := by
  unfold replyPass
  rw [h]

/-- A subframe's meaning is the dispatch unit's in the dispatch unit and `replyPass` in the reply parser. -/
theorem exec_eq_inParser {i : Instr} (h : i.language = .subframe) (s : State) :
    ∃ dispatch, exec i s = .next (s.inParser dispatch (replyPass i)) := by
  have stop (hnone : recordsOf i = none) : replyPass i = replyStop := funext (replyPass_of_none hnone)
  rw [exec_eq_inner (.inr h)]
  rcases subframe_kinds h with ⟨p, h⟩ | ⟨p, h⟩ | ⟨p, h⟩ | ⟨r, e, rfl⟩ | ⟨r, e, rfl⟩ | ⟨ch, l, d, rfl⟩ | ⟨ch, l, d, rfl⟩ |
    ⟨ch, m, rfl⟩ | rfl
  · exact ⟨_, stop (recordsOf_of_writeView h) ▸ inner_write h s⟩
  · exact ⟨_, stop (recordsOf_of_readView h) ▸ inner_read h s⟩
  · have hpass : replyPass i = replyRun p.1 p.2 i.size := by
      funext t
      rw [replyPass_of_some (recordsOf_of_replyView h), replyRun, rpInsertRun_eq_recordAll]
    exact ⟨_, hpass ▸ inner_reply h s⟩
  all_goals exact ⟨_, rfl⟩

theorem exec_in_replyParser {i : Instr} (h : i.language = .subframe) {s : State} (hparser : s.parser = .reply) :
    exec i s = .next (replyPass i s) := by
  obtain ⟨dispatch, hexec⟩ := exec_eq_inParser h s
  rw [hexec, State.inParser, hparser]

/-- A subframe that no parser meets does nothing (log 13, log 18). -/
theorem exec_in_noParser {i : Instr} (h : i.language = .subframe) {s : State}
    (hparser : s.parser = .none ∨ s.parser = .replyEnded) : exec i s = .next s := by
  obtain ⟨dispatch, hexec⟩ := exec_eq_inParser h s
  rw [hexec, State.inParser]
  rcases hparser with hparser | hparser <;> rw [hparser]

/-- Settles O54: `replyPass` in the reply parser, nothing outside the parsers. -/
theorem subframesInReplyParser : Obligations.SubframesInReplyParser := by
  intro i s hsub
  refine ⟨fun hparser es hes => ?_, fun hparser hnone => ?_, exec_in_noParser hsub⟩
  · rw [exec_in_replyParser hsub hparser, replyPass_of_some hes, encode_length]
    rfl
  · rw [exec_in_replyParser hsub hparser, replyPass_of_none hnone]
    rfl

/-! ### The loop (44_subframe_codec R260, R262) -/

theorem replyLoop_of_done (n : Nat) {s : State} (h : s.replyDone = true) : replyLoop n s = .next s := by
  cases n with
  | zero => rfl
  | succ n => simp only [replyLoop, h, if_true]

/-- A pass at a subframe that decodes. -/
theorem replyLoop_of_decodeSub (n : Nat) {s : State} {i : Instr} {r : List Byte} (hgo : s.replyDone = false)
    (hdec : decodeSub s.cfg (s.rpPayload.drop s.rpPos) = .ok (i, r)) :
    replyLoop (n + 1) s = replyLoop n (replyPass i s) := by
  have hsub := decodeSub_language hdec
  obtain ⟨hparser, -⟩ := replyDone_eq_false_iff.mp hgo
  have hexec : execInner i s = .next (replyPass i s) := by
    rw [← exec_eq_inner (.inr hsub), exec_in_replyParser hsub hparser]
  simp only [replyLoop, hgo, replyFetch_of_decodeSub hdec, Fetched.inner, hexec, Out.andThen, Bool.false_eq_true, if_false]

/-- A pass at bytes that begin no subframe (44_subframe_codec R262). -/
theorem replyLoop_of_undecoded (n : Nat) {s : State} {e : DecodeError} (hgo : s.replyDone = false)
    (hdec : decodeSub s.cfg (s.rpPayload.drop s.rpPos) = .error e) : replyLoop (n + 1) s = .next (replyStop s) := by
  simp only [replyLoop, hgo, replyFetch, hdec, Fetched.inner, Out.andThen, Bool.false_eq_true, if_false]
  exact replyLoop_done n rfl

/-- Where no reply or error subframe begins, the parse ends with its map and count as they are (44_subframe_codec R262). -/
theorem replyLoop_at_tail (n : Nat) {s : State} (hn : s.rpPayload.length ≤ s.rpPos + n)
    (htail : ∀ i r, decodeSub s.cfg (s.rpPayload.drop s.rpPos) = .ok (i, r) → recordsOf i = none) :
    ∃ t, replyLoop n s = .next t ∧ replyConclude t = replyConclude s := by
  cases hdone : s.replyDone with
  | true => exact ⟨s, replyLoop_of_done n hdone, rfl⟩
  | false =>
    obtain ⟨-, hlt⟩ := replyDone_eq_false_iff.mp hdone
    obtain ⟨m, rfl⟩ : ∃ m, n = m + 1 := ⟨n - 1, by omega⟩
    cases hdec : decodeSub s.cfg (s.rpPayload.drop s.rpPos) with
    | error e => exact ⟨_, replyLoop_of_undecoded m hdone hdec, rfl⟩
    | ok p =>
      obtain ⟨i, r⟩ := p
      have hloop := replyLoop_of_decodeSub m hdone hdec
      rw [replyPass_of_none (htail i r hdec), replyLoop_done m rfl] at hloop
      exact ⟨_, hloop, rfl⟩

/-- On a payload that goes on with encoded reply and error subframes, the loop records their entries in order and stops behind
them (44_subframe_codec R260). -/
theorem replyLoop_records (is : List Instr) {ess : List (List (Word × RpEntry))} {tail : List Byte} {s : State} (n : Nat)
    (hparser : s.parser = .reply) (hbytes : s.rpPayload.drop s.rpPos = is.flatMap encode ++ tail)
    (hwf : ∀ i ∈ is, i.wf s.cfg) (hrec : is.map recordsOf = ess.map some)
    (htail : ∀ i r, decodeSub s.cfg tail = .ok (i, r) → recordsOf i = none)
    (hused : s.rpUsed = BitVec.ofNat 32 s.rpPos) (hn : s.rpPayload.length ≤ s.rpPos + n) :
    ∃ t, replyLoop n s = .next t ∧ replyConclude t = replyConclude { s with
      rpMap := recordAll s.rpMap ess.flatten
      rpUsed := BitVec.ofNat 32 (s.rpPos + (is.flatMap encode).length) } := by
  induction is generalizing ess s n with
  | nil =>
    obtain rfl : ess = [] := by simpa using hrec.symm
    obtain ⟨t, hloop, hend⟩ := replyLoop_at_tail n hn (hbytes ▸ htail)
    refine ⟨t, hloop, hend.trans ?_⟩
    simp only [List.flatMap_nil, List.length_nil, Nat.add_zero, ← hused]
    rfl
  | cons i is ih =>
    obtain ⟨hiwf, hwf'⟩ := List.forall_mem_cons.mp hwf
    cases ess with
    | nil => cases hrec
    | cons es ess =>
      simp only [List.map_cons, List.cons.injEq] at hrec
      obtain ⟨hes, hrec'⟩ := hrec
      have hsub := language_of_recordsOf hes
      rw [List.flatMap_cons, List.append_assoc] at hbytes
      have hleft := congrArg List.length hbytes
      rw [List.length_drop, List.length_append, encode_length] at hleft
      have hpos := size_pos hsub
      obtain ⟨m, rfl⟩ : ∃ m, n = m + 1 := ⟨n - 1, by omega⟩
      have hgo : s.replyDone = false := replyDone_eq_false_iff.mpr ⟨hparser, by omega⟩
      have hdec : decodeSub s.cfg (s.rpPayload.drop s.rpPos) = .ok (i, is.flatMap encode ++ tail) := by
        rw [hbytes, decodeSub_encode hsub hiwf]
      have hloop := replyLoop_of_decodeSub m hgo hdec
      rw [replyPass_of_some hes] at hloop
      have hbytes' : s.rpPayload.drop (s.rpPos + i.size) = is.flatMap encode ++ tail := by
        rw [← List.drop_drop, hbytes, ← encode_length, List.drop_left]
      have hn' : s.rpPayload.length ≤ s.rpPos + i.size + m := by omega
      obtain ⟨t, hrest, hend⟩ := ih (s := replyAdvance i.size { s with rpMap := recordAll s.rpMap es }) m hparser hbytes'
        hwf' hrec' htail rfl hn'
      refine ⟨t, hloop.trans hrest, hend.trans ?_⟩
      rw [List.flatten_cons, recordAll_append, List.flatMap_cons, List.length_append, encode_length, ← Nat.add_assoc]
      rfl

/-- Settles O34: the loop from the beginning of the payload, then the result. -/
theorem replyParse : Obligations.ReplyParse := by
  intro s is ess tail payload hpayload hwf hrec htail
  refine ⟨fun hlen => ?_, fun hlong => if_pos hlong⟩
  obtain ⟨t, hloop, hend⟩ := replyLoop_records is (ess := ess) (tail := tail)
    (s := { s.accept .host with rpMap := [], rpUsed := 0#32, rpPayload := payload, rpPos := 0, parser := .reply })
    payload.length rfl hpayload hwf hrec htail rfl (Nat.le_add_left ..)
  have hexec : exec (.rpParse payload) s = .next (replyConclude t) := by
    show execRpParse payload s = _
    rw [execRpParse, if_neg (Nat.not_lt.mpr hlen), hloop]
    rfl
  rw [hexec, hend, Nat.zero_add]
  rfl

end Sys2Proof.Machine
end

section
/-! The request builder's commands (44_subframe_codec R246 to R251). -/

namespace Sys2Proof.Machine

section
variable {s : State} {sub : List Byte} {done : State → State}

theorem rqAppend_fits (h : s.rqBuf.length + sub.length ≤ s.cfg.rqCap) :
    rqAppend sub done s = done { s with rqBuf := s.rqBuf ++ sub } := if_neg (Nat.not_lt.mpr h)

/-- What does not fit is refused whole (44_subframe_codec R250). -/
theorem rqAppend_overflows (h : s.cfg.rqCap < s.rqBuf.length + sub.length) :
    rqAppend sub done s = s.raise .rqOverflow := if_pos h

variable {reg : Word} {t : VType} {values : List (List Byte)}

/-- Patterns of the type's width are appended as one write subframe (44_subframe_codec R248). -/
theorem exec_rqWrite_append (h : ∀ v ∈ values, v.length = t.width) :
    exec (.rqWrite reg t values) s = .next (rqAppend (subRw 0 t reg (values.map (Value.read t))) id (s.accept .host)) := by
  refine if_neg ?_
  simpa using h

/-- A pattern of another width is refused (30_encoding R87). -/
theorem exec_rqWrite_badCmd (h : ∃ v ∈ values, v.length ≠ t.width) :
    exec (.rqWrite reg t values) s = .next ((s.accept .host).raise .badCmd) := by
  refine if_pos ?_
  simpa using h

theorem exec_rqRead_append (reg : Word) (t : VType) (n : Word) (s : State) :
    exec (.rqRead reg t n) s =
      .next (rqAppend (subRead t reg n.toNat) (fun u => { u with rqRr := true }) (s.accept .host)) := rfl

end

/-- Settles O33: `RQ_WRITE` and `RQ_READ` are one append each, which fits or overflows. -/
theorem requestBuilder : Obligations.RequestBuilder := by
  intro s
  refine ⟨rfl, fun _ => rfl, rfl, fun reg t => ⟨fun values hwidth => ⟨fun hfits => ?_, fun hover => ?_⟩,
    fun values hwidth => exec_rqWrite_badCmd hwidth, fun n => ⟨fun hfits => ?_, fun hover => ?_⟩⟩⟩
  · rw [exec_rqWrite_append hwidth, rqAppend_fits (s := s.accept .host) hfits]
    rfl
  · rw [exec_rqWrite_append hwidth, rqAppend_overflows (s := s.accept .host) hover]
  · rw [exec_rqRead_append, rqAppend_fits (s := s.accept .host) hfits]
    rfl
  · rw [exec_rqRead_append, rqAppend_overflows (s := s.accept .host) hover]

end Sys2Proof.Machine
end

section
/-! The block's own subframe encoders emit subframes that decode to what was meant, with the canonical count field
(44_subframe_codec R245, 30_encoding R84, R102). -/

namespace Sys2Proof.Machine

/-! ### Words written out -/

/-- Settles O1: each word evaluates to its instruction, or to the error meant. -/
theorem decodeWords : Obligations.DecodeWords :=
  ⟨rfl, rfl, rfl, rfl, rfl, rfl, rfl, rfl, rfl, rfl, rfl, rfl, rfl⟩

/-! ### The count field (30_encoding R102) -/

theorem countField_code (n : Nat) : (countField n).1 = if 1 ≤ n ∧ n ≤ 3 then n else 0 := by
  unfold countField
  split <;> rfl

theorem countField_of_not_short {n : Nat} (h : ¬(1 ≤ n ∧ n ≤ 3)) : countField n = (0, vencNat n) := if_neg h

/-- The code byte: class, type and count do not overlap (30_encoding R84). -/
theorem code_toNat {base : Nat} (hbase : base ≤ 0x20) (t : VType) (n : Nat) :
    (BitVec.ofNat 8 (base + 4 * t.index + (countField n).1)).toNat =
      base + 4 * t.index + (if 1 ≤ n ∧ n ≤ 3 then n else 0) := by
  have hindex : t.index ≤ 3 := by cases t <;> decide
  rw [countField_code, BitVec.toNat_ofNat]
  split <;> omega

/-! ### Subframes by type and count (30_encoding R92, R93) -/

/-- The bits of a Value of a type (44_subframe_codec R220). -/
abbrev patternBits : VType → Type
  | .i8 => BitVec 8
  | .i16 => BitVec 16
  | .i32 | .f32 => BitVec 32

/-- The Value of a type with given bits. -/
def valueOf : (t : VType) → patternBits t → Value
  | .i8 => .i8
  | .i16 => .i16
  | .i32 => .i32
  | .f32 => .f32

theorem exists_valueOf {t : VType} {v : Value} (h : v.type = t) : ∃ x, valueOf t x = v := by
  subst h
  cases v <;> exact ⟨_, rfl⟩

/-- The values of one type are given by their bits. -/
theorem exists_map_valueOf {t : VType} {vals : List Value} (h : ∀ v ∈ vals, v.type = t) :
    ∃ l : List (patternBits t), vals = l.map (valueOf t) := by
  have hmem : vals ∈ Set.range (List.map (valueOf t)) := by
    rw [Set.range_list_map]
    exact fun v hv => exists_valueOf (h v hv)
  obtain ⟨l, hl⟩ := hmem
  exact ⟨l, hl.symm⟩

/-- The four subframes of one class and type: an explicit count, or one, two or three values (30_encoding R92). -/
structure RunForms (α : Type) where
  many : VarU → VarU → List α → Instr
  one : VarU → α → Instr
  two : VarU → α → α → Instr
  three : VarU → α → α → α → Instr

/-- `WRITE` at each type (codes 0x00 to 0x0F). -/
def writeForms : (t : VType) → RunForms (patternBits t)
  | .i8 => ⟨.writeI8N, .writeI8_1, .writeI8_2, .writeI8_3⟩
  | .i16 => ⟨.writeI16N, .writeI16_1, .writeI16_2, .writeI16_3⟩
  | .i32 => ⟨.writeI32N, .writeI32_1, .writeI32_2, .writeI32_3⟩
  | .f32 => ⟨.writeF32N, .writeF32_1, .writeF32_2, .writeF32_3⟩

/-- `REPLY` at each type (codes 0x20 to 0x2F). -/
def replyForms : (t : VType) → RunForms (patternBits t)
  | .i8 => ⟨.replyI8N, .replyI8_1, .replyI8_2, .replyI8_3⟩
  | .i16 => ⟨.replyI16N, .replyI16_1, .replyI16_2, .replyI16_3⟩
  | .i32 => ⟨.replyI32N, .replyI32_1, .replyI32_2, .replyI32_3⟩
  | .f32 => ⟨.replyF32N, .replyF32_1, .replyF32_2, .replyF32_3⟩

/-- The four read subframes of one type: an explicit count, or one, two or three registers (30_encoding R93). -/
structure ReadForms where
  many : VarU → VarU → Instr
  one : VarU → Instr
  two : VarU → Instr
  three : VarU → Instr

/-- `READ` at each type (codes 0x10 to 0x1F). -/
def readForms : VType → ReadForms
  | .i8 => ⟨.readI8N, .readI8_1, .readI8_2, .readI8_3⟩
  | .i16 => ⟨.readI16N, .readI16_1, .readI16_2, .readI16_3⟩
  | .i32 => ⟨.readI32N, .readI32_1, .readI32_2, .readI32_3⟩
  | .f32 => ⟨.readF32N, .readF32_1, .readF32_2, .readF32_3⟩

/-! ### Subframes that a view reads -/

/-- What is emitted decodes (30_encoding R101). -/
theorem decodeSub_of_encode {c : Config} {i : Instr} {b : List Byte} (hbytes : encode i = b) (hsub : i.language = .subframe)
    (hwf : i.wf c) (rest : List Byte) : decodeSub c (b ++ rest) = .ok (i, rest) :=
  hbytes ▸ decodeSub_encode hsub hwf rest

/-- `i` is a subframe that the encodings allow, that `view` reads as `ops`, and that encodes to `b`. The last three are
evaluated, for a subframe written out. -/
structure Emits {γ : Type} (c : Config) (view : Instr → Option γ) (ops : γ) (b : List Byte) (i : Instr) : Prop where
  wf : i.wf c
  language : i.language = .subframe := by rfl
  view : view i = some ops := by rfl
  bytes : encode i = b := by
    simp [encode, writeForms, replyForms, readForms, valueOf, Value.bytes, VType.index, List.flatMap_map]

theorem Emits.decodes {γ : Type} {c : Config} {view : Instr → Option γ} {ops : γ} {b : List Byte} {i : Instr}
    (h : Emits c view ops b i) (rest : List Byte) : decodeSub c (b ++ rest) = .ok (i, rest) :=
  decodeSub_of_encode h.bytes h.language h.wf rest

/-- An explicit count names as many items as there are (30_encoding R89). -/
theorem counts_minimal {n : Nat} (hn : n < 2 ^ 32) : (VarU.minimal (BitVec.ofNat 32 n)).counts n :=
  ⟨VarU.minimal_wf _, count_toNat hn⟩

/-! ### Writes and replies (44_subframe_codec R245, `sub_rw`) -/

/-- The forms have the class's codes at the type, the layouts of R92, and operands that `view` reads back. -/
structure RunForms.Lawful {t : VType} (f : RunForms (patternBits t)) (cls : Nat)
    (view : Instr → Option (Word × List Value)) (c : Config) : Prop where
  many : ∀ n r (l : List (patternBits t)), n.counts l.length ∧ r.wf → Emits c view (r.value, l.map (valueOf t))
    (BitVec.ofNat 8 (0x10 * cls + 4 * t.index) :: (n.bytes ++ r.bytes ++ (l.map (valueOf t)).flatMap Value.bytes))
    (f.many n r l)
  one : ∀ r x, r.wf → Emits c view (r.value, [x].map (valueOf t))
    (BitVec.ofNat 8 (0x10 * cls + 4 * t.index + 1) :: (r.bytes ++ ([x].map (valueOf t)).flatMap Value.bytes)) (f.one r x)
  two : ∀ r x y, r.wf → Emits c view (r.value, [x, y].map (valueOf t))
    (BitVec.ofNat 8 (0x10 * cls + 4 * t.index + 2) :: (r.bytes ++ ([x, y].map (valueOf t)).flatMap Value.bytes))
    (f.two r x y)
  three : ∀ r x y z, r.wf → Emits c view (r.value, [x, y, z].map (valueOf t))
    (BitVec.ofNat 8 (0x10 * cls + 4 * t.index + 3) :: (r.bytes ++ ([x, y, z].map (valueOf t)).flatMap Value.bytes))
    (f.three r x y z)

theorem writeForms_lawful (t : VType) (c : Config) : (writeForms t).Lawful 0 Instr.writeView c := by
  cases t <;> exact ⟨fun _ _ _ h => { wf := h }, fun _ _ h => { wf := h }, fun _ _ _ h => { wf := h },
    fun _ _ _ _ h => { wf := h }⟩

theorem replyForms_lawful (t : VType) (c : Config) : (replyForms t).Lawful 2 Instr.replyView c := by
  cases t <;> exact ⟨fun _ _ _ h => { wf := h }, fun _ _ h => { wf := h }, fun _ _ _ h => { wf := h },
    fun _ _ _ _ h => { wf := h }⟩

/-- `sub_rw` emits the form that its number of values selects (30_encoding R102). -/
theorem RunForms.Lawful.emits {t : VType} {f : RunForms (patternBits t)} {cls : Nat}
    {view : Instr → Option (Word × List Value)} {c : Config} (hf : f.Lawful cls view c) (reg : Word) {vals : List Value}
    (htype : ∀ v ∈ vals, v.type = t) (hlen : vals.length < 2 ^ 32) :
    ∃ i, Emits c view (reg, vals) (subRw cls t reg vals) i := by
  obtain ⟨l, rfl⟩ := exists_map_valueOf htype
  have hreg := VarU.minimal_wf reg
  have hbytes := VarU.minimal_bytes reg
  have hmany (hcount : ¬(1 ≤ l.length ∧ l.length ≤ 3)) :
      ∃ i, Emits c view (reg, l.map (valueOf t)) (subRw cls t reg (l.map (valueOf t))) i := by
    rw [List.length_map] at hlen
    have h := hf.many _ _ l ⟨counts_minimal hlen, hreg⟩
    rw [VarU.minimal_bytes, hbytes] at h
    rw [subRw, List.length_map, countField_of_not_short hcount]
    exact ⟨_, h⟩
  match l with
  | [] => exact hmany (by simp)
  | [x] => exact ⟨_, hbytes ▸ hf.one _ x hreg⟩
  | [x, y] => exact ⟨_, hbytes ▸ hf.two _ x y hreg⟩
  | [x, y, z] => exact ⟨_, hbytes ▸ hf.three _ x y z hreg⟩
  | _ :: _ :: _ :: _ :: _ => exact hmany (by simp)

/-! ### Reads (44_subframe_codec R245, `sub_read`) -/

/-- An explicit count: code with count field 0. -/
theorem readForms_many (t : VType) {c : Config} {n r : VarU} (h : n.wf ∧ r.wf) :
    Emits c Instr.readView (t, n.value.toNat, r.value) (BitVec.ofNat 8 (0x10 + 4 * t.index) :: (n.bytes ++ r.bytes))
      ((readForms t).many n r) := by
  cases t <;> exact { wf := h }

theorem readForms_few (t : VType) {c : Config} {r : VarU} (h : r.wf) :
    Emits c Instr.readView (t, 1, r.value) (BitVec.ofNat 8 (0x10 + 4 * t.index + 1) :: r.bytes) ((readForms t).one r) ∧
      Emits c Instr.readView (t, 2, r.value) (BitVec.ofNat 8 (0x10 + 4 * t.index + 2) :: r.bytes) ((readForms t).two r) ∧
      Emits c Instr.readView (t, 3, r.value) (BitVec.ofNat 8 (0x10 + 4 * t.index + 3) :: r.bytes)
        ((readForms t).three r) := by
  cases t <;> exact ⟨{ wf := h }, { wf := h }, { wf := h }⟩

/-- `sub_read` emits the form that its number of registers selects (30_encoding R102). -/
theorem subRead_emits (c : Config) (t : VType) (reg : Word) {n : Nat} (hn : n < 2 ^ 32) :
    ∃ i, Emits c Instr.readView (t, n, reg) (subRead t reg n) i := by
  have hreg := VarU.minimal_wf reg
  have hbytes := VarU.minimal_bytes reg
  obtain ⟨hone, htwo, hthree⟩ := readForms_few t (c := c) hreg
  rw [hbytes] at hone htwo hthree
  have hmany (hcount : ¬(1 ≤ n ∧ n ≤ 3)) : ∃ i, Emits c Instr.readView (t, n, reg) (subRead t reg n) i := by
    obtain ⟨hcwf, hcval⟩ := counts_minimal hn
    have h := readForms_many t (c := c) ⟨hcwf, hreg⟩
    rw [hcval, VarU.minimal_bytes, hbytes] at h
    rw [subRead, countField_of_not_short hcount]
    exact ⟨_, h⟩
  match n with
  | 0 => exact hmany (by simp)
  | 1 => exact ⟨_, hone⟩
  | 2 => exact ⟨_, htwo⟩
  | 3 => exact ⟨_, hthree⟩
  | _ + 4 => exact hmany (by simp)

/-! ### Errors and tunnel replies -/

/-- `sub_err` writes the minimal sizes of the register and the error code (44_subframe_codec R245). -/
theorem subErr_eq (code : Byte) (reg e : Word) :
    code :: ((VarU.minimal reg).bytes ++ (VarU.minimal e).bytes) = subErr code reg e := by
  rw [VarU.minimal_bytes, VarU.minimal_bytes, subErr]

/-- `sub_s2c` writes the minimal sizes of the channel and the byte count (44_subframe_codec R245). -/
theorem subS2c_eq (ch : Word) (data : List Byte) :
    0x41#8 :: ((VarU.minimal ch).bytes ++ (VarU.minimal (BitVec.ofNat 32 data.length)).bytes ++ data) =
      subS2c ch data := by
  rw [VarU.minimal_bytes, VarU.minimal_bytes, subS2c, vencNat]

/-- Settles O10: each encoder emits the encoding of a subframe with the meant operands; the codes by `code_toNat`. -/
theorem builtSubframesDecode : Obligations.BuiltSubframesDecode := by
  intro c reg e ch n t vals data rest htype hvals hn hdata
  obtain ⟨w, hwrite⟩ := (writeForms_lawful t c).emits reg htype hvals
  obtain ⟨p, hreply⟩ := (replyForms_lawful t c).emits reg htype hvals
  obtain ⟨r, hread⟩ := subRead_emits c t reg hn
  have hwriteError : encode (.writeError (.minimal reg) (.minimal e)) = subErr 0x30#8 reg e := subErr_eq _ reg e
  have hreadError : encode (.readError (.minimal reg) (.minimal e)) = subErr 0x31#8 reg e := subErr_eq _ reg e
  have hs2cBytes : encode (.tunnelS2c (.minimal ch) (.minimal (BitVec.ofNat 32 data.length)) data) = subS2c ch data :=
    subS2c_eq ch data
  have herr : (VarU.minimal reg).wf ∧ (VarU.minimal e).wf := ⟨VarU.minimal_wf reg, VarU.minimal_wf e⟩
  have hs2c : (VarU.minimal ch).wf ∧ (VarU.minimal (BitVec.ofNat 32 data.length)).counts data.length :=
    ⟨VarU.minimal_wf ch, counts_minimal hdata⟩
  refine ⟨⟨w, hwrite.decodes rest, hwrite.view, hwrite.bytes⟩, ⟨p, hreply.decodes rest, hreply.view, hreply.bytes⟩,
    ⟨r, hread.decodes rest, hread.view⟩, decodeSub_of_encode hwriteError rfl herr rest,
    decodeSub_of_encode hreadError rfl herr rest, decodeSub_of_encode hs2cBytes rfl hs2c rest, ?_,
    code_toNat (by decide) t vals.length, code_toNat (by decide) t n⟩
  exact (code_toNat (by decide) t vals.length).trans (by rw [Nat.zero_add])

end Sys2Proof.Machine
end

section
/-! The dispatch unit's commands and single subframes (45_dispatch R283 to R294, R332 to R338): reply subframes placed, the
unit's start, the frame to another node, the subframes it does not know, and the tunnels. -/

namespace Sys2Proof.Machine

/-! ### The reply (45_dispatch R290) -/

/-- From `s` to `t` reply subframes were placed, until one did not fit and was counted missing. -/
structure Placed (s t : State) : Prop where
  cfg : t.cfg = s.cfg
  need : t.need = s.need
  tunnelSeen : t.tunnelSeen = s.tunnelSeen
  counts : (t.abort = false ∧ t.stats = s.stats) ∨
    (t.abort = true ∧ t.stats = s.stats.bump s.cfg.statsWidth .missingSubframe)

theorem appendItems_abort (bs : List (List Byte)) {s : State} (h : s.abort = true) : appendItems bs s = s := by
  cases bs with
  | nil => rfl
  | cons b bs => exact if_pos h

theorem appendItems_cons (b : List Byte) (bs : List (List Byte)) {s : State} (h : s.abort = false) :
    appendItems (b :: bs) s = appendItems bs (appendReply b s) :=
  if_neg (by simp [h])

/-- What comes after a subframe that does not fit is not looked at. -/
theorem appendItems_full {b : List Byte} {s : State} (bs : List (List Byte)) (habort : s.abort = false)
    (h : s.cfg.replyCap < s.replyBuf.length + b.length) :
    appendItems (b :: bs) s = { s.bump .missingSubframe with abort := true } := by
  rw [appendItems_cons b bs habort, appendReply_full h]
  exact appendItems_abort bs rfl

section
variable {s : State} (habort : s.abort = false)
include habort

theorem Placed.append (b : List Byte) : Placed s (appendReply b s) := by
  by_cases hfits : s.replyBuf.length + b.length ≤ s.cfg.replyCap
  · rw [appendReply_fits hfits]
    exact ⟨rfl, rfl, rfl, .inl ⟨habort, rfl⟩⟩
  · rw [appendReply_full (not_le.mp hfits)]
    exact ⟨rfl, rfl, rfl, .inr ⟨rfl, rfl⟩⟩

theorem Placed.items (bs : List (List Byte)) : Placed s (appendItems bs s) := by
  induction bs generalizing s with
  | nil => exact ⟨rfl, rfl, rfl, .inl ⟨habort, rfl⟩⟩
  | cons b bs ih =>
    have hfirst := Placed.append habort b
    rw [appendItems_cons b bs habort]
    rcases hfirst.counts with ⟨hgo, hstats⟩ | ⟨hfull, -⟩
    · obtain ⟨hcfg, hneed, htunnel, hcounts⟩ := ih hgo
      rw [hfirst.cfg, hstats] at hcounts
      exact ⟨hcfg.trans hfirst.cfg, hneed.trans hfirst.need, htunnel.trans hfirst.tunnelSeen, hcounts⟩
    · rwa [appendItems_abort bs hfull]

end

/-- Settles O52: the two branches of `append_reply`. -/
theorem appendReplyWhole : Obligations.AppendReply := by
  intro s b habort
  refine ⟨fun hfits => ?_, fun hfull more => appendItems_full more habort hfull⟩
  rw [appendItems_cons b [] habort, appendReply_fits hfits]
  rfl

/-! ### Arming the read (45_dispatch R283, R286) -/

/-- The dispatch unit becomes idle and arms its read (45_dispatch R287). -/
theorem finish_eq_rearmed {s : State} (s0 : State) (hrx : s.rxState = .idle) : finish s0 s = .next s.rearmed :=
  arm_eq_armed s0 (s := { s with srvState := .idle }) hrx (.inr (le_refl _))

/-- With its checks passed `SRV_START` enables the unit and arms (45_dispatch R283). -/
theorem execSrvStart_arm {s : State} (hen : s.srvEn = false) (hrx : s.rxState = .idle) (htx : s.txState = .idle) :
    execSrvStart s = arm (s.accept .host) s.cfg.maxPayload .server
      { s.accept .host with srvEn := true, srvState := .idle } := by
  simp [execSrvStart, hen, hrx, htx]

theorem execSrvStart_enabled {s : State} (hen : s.srvEn = true) :
    execSrvStart s = .next ((s.accept .host).raise .srvRestart) :=
  if_pos hen

/-- Settles O46: the three refusals in their order, then the arm. -/
theorem serverStart : Obligations.ServerStart := by
  intro s
  refine ⟨execSrvStart_enabled, fun hen hrx => ?pendingRead, fun hen hrx htx => ?pendingWrite,
    fun hen hrx htx => ?armed⟩
  case pendingRead =>
    show execSrvStart s = _
    simp [execSrvStart, hen, hrx]
  case pendingWrite =>
    show execSrvStart s = _
    simp [execSrvStart, hen, hrx, htx]
  case armed =>
    exact (execSrvStart_arm hen hrx htx).trans
      (arm_eq_armed _ (s := { s.accept .host with srvEn := true, srvState := .idle }) hrx (.inr (le_refl _)))

/-- Settles O47: the address check fails, and the unit arms again. -/
theorem dispatchWrongId : Obligations.DispatchWrongId := by
  intro s hsrv hrx hnode hbroadcast
  have haddr : s.isAddressed = false := by
    rw [Bool.eq_false_iff, Ne, isAddressed_iff]
    exact not_or.mpr ⟨hnode, hbroadcast⟩
  exact (execSrvDispatch_skip hsrv haddr).trans (finish_eq_rearmed _ hrx)

/-! ### Subframes in the dispatch unit (45_dispatch R288) -/

/-- In a dispatch parse a subframe acts by the dispatch unit's rule (30_encoding R100). -/
theorem inParser_dispatch {s : State} (h : s.parser = .dispatch) (dispatch reply : State → State) :
    s.inParser dispatch reply = dispatch s := by
  rw [State.inParser, h]

/-- What the reply parser records is a reply or an error subframe (44_subframe_codec R225 to R242). -/
theorem recordsOf_kinds {i : Instr} (h : recordsOf i ≠ none) :
    (∃ p, i.replyView = some p) ∨ (∃ r e, i = .writeError r e) ∨ ∃ r e, i = .readError r e := by
  obtain ⟨es, hes⟩ := Option.ne_none_iff_exists'.mp h
  have hsub := language_of_recordsOf hes
  rcases subframe_kinds hsub with ⟨p, hp⟩ | ⟨p, hp⟩ | hp | hp | hp | ⟨_, _, _, rfl⟩ | ⟨_, _, _, rfl⟩ | ⟨_, _, rfl⟩ | rfl
  · exact absurd (recordsOf_of_writeView hp) h
  · exact absurd (recordsOf_of_readView hp) h
  · exact .inl hp
  · exact .inr (.inl hp)
  · exact .inr (.inr hp)
  all_goals exact absurd rfl h

/-- Settles O53: each of these subframes is `unknown()` in the dispatch unit. -/
theorem replySubframesUnknown : Obligations.ReplySubframesUnknown := by
  intro i s hparser h
  have hunknown (reply : State → State) : Host.Outcome.next (s.inParser unknownSub reply) =
      (.next { s.bump .unknownSubframe with abort := true } : Out) := by
    rw [inParser_dispatch hparser, unknownSub]
  rcases h with hrec | ⟨ch, len, data, rfl⟩
  · rcases recordsOf_kinds hrec with ⟨p, hp⟩ | ⟨r, e, rfl⟩ | ⟨r, e, rfl⟩
    · obtain ⟨es, hes⟩ := Option.ne_none_iff_exists'.mp hrec
      rw [exec_eq_inner (.inr (language_of_recordsOf hes)), inner_reply hp]
      exact hunknown _
    · exact hunknown _
    · exact hunknown _
  · exact hunknown _

/-! ### Tunnels (45_dispatch R332 to R338) -/

/-- A channel that is not in `TUNNEL_IDS` is not registered (45_dispatch R332). -/
theorem registered_eq_false {s : State} {ch : Nat} (h : ∀ id ∈ s.cfg.tunnelIds, id.toNat ≠ ch) :
    s.registered ch = false := by
  simpa [State.registered] using h

theorem registered_eq_true {s : State} {ch : Nat} (h : ∃ id ∈ s.cfg.tunnelIds, id.toNat = ch) :
    s.registered ch = true := by
  simpa [State.registered] using h

/-- The dispatch unit's `TUNNEL_C2S` takes what fits, counts the rest once, and answers (45_dispatch R333). -/
theorem tunnelData_registered {s : State} {ch : Word} (data : List Byte) (size : Nat) {q : List Byte} {a : Nat}
    (hch : s.registered ch.toNat = true) (hq : q = s.rxq ch.toNat)
    (ha : a = min data.length (s.cfg.tunnelRxCap - q.length)) :
    tunnelData ch data size s = buildS2c ch none (({ s with
      need := true, tunnelSeen := true, pp := s.pp + size
      stats := if a < data.length then s.stats.bump s.cfg.statsWidth .receiveOverrun else s.stats } :
      State).setRxq ch.toNat (q ++ data.take a)) := by
  subst ha hq
  rw [tunnelData, if_neg (by simp [hch])]
  dsimp only
  split <;> rfl

theorem tunnelPoll_registered {s : State} {ch : Word} (m : Word) (size : Nat) (hch : s.registered ch.toNat = true) :
    tunnelPoll ch m size s =
      buildS2c ch (some m.toNat) { s with need := true, tunnelSeen := true, pp := s.pp + size } :=
  if_neg (by simp [hch])

/-- A tunnel subframe of a channel that is not registered is unknown (45_dispatch R332). -/
theorem tunnel_unregistered {s : State} {ch : Word} (hch : s.registered ch.toNat = false) (data : List Byte) (m : Word)
    (size : Nat) : tunnelData ch data size s = unknownSub s ∧ tunnelPoll ch m size s = unknownSub s :=
  ⟨if_pos hch, if_pos hch⟩

theorem exec_tunnelC2s {s : State} (hparser : s.parser = .dispatch) (ch len : VarU) (data : List Byte) :
    exec (.tunnelC2s ch len data) s =
      .next (tunnelData ch.value data (encode (.tunnelC2s ch len data)).length s) := by
  rw [encode_length]
  exact congrArg Host.Outcome.next (inParser_dispatch hparser _ _)

theorem exec_tunnelPoll {s : State} (hparser : s.parser = .dispatch) (ch m : VarU) :
    exec (.tunnelPoll ch m) s = .next (tunnelPoll ch.value m.value (encode (.tunnelPoll ch m)).length s) := by
  rw [encode_length]
  exact congrArg Host.Outcome.next (inParser_dispatch hparser _ _)

/-- Settles O56: by whether the channel is registered. -/
theorem tunnelSubframes : Obligations.TunnelSubframes := by
  intro s ch len m data q a hparser hq ha
  rw [exec_tunnelC2s hparser, exec_tunnelPoll hparser]
  refine ⟨fun hch => ?known, fun hch => ?unknown, congrArg Host.Outcome.next (inParser_dispatch hparser _ _)⟩
  case known =>
    rw [tunnelData_registered data _ (registered_eq_true hch) hq ha, tunnelPoll_registered _ _ (registered_eq_true hch)]
    exact ⟨rfl, rfl⟩
  case unknown =>
    obtain ⟨-, hpoll⟩ := tunnel_unregistered (registered_eq_false hch) data m.value (encode (.tunnelPoll ch m)).length
    obtain ⟨hdata, -⟩ :=
      tunnel_unregistered (registered_eq_false hch) data m.value (encode (.tunnelC2s ch len data)).length
    rw [hdata, hpoll]
    exact ⟨rfl, rfl⟩

/-- No tunnel reply fits (45_dispatch R335). -/
theorem fitS2c_eq_none {ch : Word} {room avail : Nat}
    (h : ∀ m, m ≤ avail → room < 1 + (venc ch).length + (vencNat m).length + m) : fitS2c ch room avail = none := by
  induction avail with
  | zero => exact if_neg (not_le.mpr (h 0 le_rfl))
  | succ avail ih =>
    rw [fitS2c, if_neg (not_le.mpr (h _ le_rfl))]
    exact ih fun m hm => h m (Nat.le_succ_of_le hm)

/-- The largest tunnel reply that fits (45_dispatch R335). -/
theorem fitS2c_eq_some {ch : Word} {room avail m : Nat} (hm : m ≤ avail)
    (hfits : 1 + (venc ch).length + (vencNat m).length + m ≤ room)
    (hmax : ∀ k, m < k → k ≤ avail → room < 1 + (venc ch).length + (vencNat k).length + k) :
    fitS2c ch room avail = some m := by
  induction avail with
  | zero =>
    obtain rfl : m = 0 := Nat.le_zero.mp hm
    exact if_pos hfits
  | succ avail ih =>
    rcases Nat.of_le_succ hm with hlt | rfl
    · rw [fitS2c, if_neg (not_le.mpr (hmax _ (Nat.lt_succ_of_le hlt) le_rfl))]
      exact ih hlt fun k hk hle => hmax k hk (Nat.le_succ_of_le hle)
    · exact if_pos hfits

/-- How many pending bytes a tunnel reply may carry (45_dispatch R335). -/
def s2cAvail (pending : Nat) : Option Nat → Nat
  | none => pending
  | some m => min pending m

theorem s2cAvail_le (pending : Nat) (lim : Option Nat) : s2cAvail pending lim ≤ pending := by
  cases lim with
  | none => exact le_rfl
  | some m => exact Nat.min_le_left ..

/-- A frame that may be answered draws the largest tunnel reply (45_dispatch R335). -/
theorem buildS2c_of_sendOk {s : State} (ch : Word) (lim : Option Nat) (h : s.sendOk = true) :
    buildS2c ch lim s =
      match fitS2c ch s.replyRoom (s2cAvail (s.txq ch.toNat).length lim) with
      | none => { s.bump .missingSubframe with abort := true }
      | some m => appendReply (subS2c ch ((s.txq ch.toNat).take m)) (s.setTxq ch.toNat ((s.txq ch.toNat).drop m)) := by
  rw [buildS2c, if_neg (by simp [h])]
  cases lim <;> rfl

/-- A frame that may not be answered draws none (45_dispatch R289, R335). -/
theorem buildS2c_silent {s : State} (ch : Word) (lim : Option Nat) (h : s.sendOk = false) : buildS2c ch lim s = s :=
  if_pos h

/-- `SEND_OK` (45_dispatch R287, R289). -/
theorem sendOk_eq_false_iff {s : State} : s.sendOk = false ↔ s.rxfDst = 0x7F#8 ∧ s.rxfRr = false := by
  simp [State.sendOk, State.isBroadcast]

/-- Settles O57: by what `fitS2c` finds; the subframe it chose fits the reply. -/
theorem tunnelReplyLargest : Obligations.TunnelReplyLargest := by
  intro s ch lim q avail room hq havail hroom
  have havail' : s2cAvail (s.txq ch.toNat).length lim = avail := by
    rw [havail, hq]
    cases lim <;> rfl
  have hroom' : s.replyRoom = room := hroom.symm
  refine ⟨fun hsilent => buildS2c_silent ch lim (sendOk_eq_false_iff.mpr hsilent), fun hloud => ?_⟩
  have hsend : s.sendOk = true := sendOk_of_not_silent hloud
  refine ⟨fun hnone => ?_, fun m hm hfits hmax => ?_⟩
  · rw [buildS2c_of_sendOk ch lim hsend, havail', hroom', fitS2c_eq_none hnone]
    rfl
  · rw [buildS2c_of_sendOk ch lim hsend, havail', hroom', fitS2c_eq_some hm hfits hmax, ← hq]
    have hlen : (q.take m).length = m := by
      have hle := s2cAvail_le (s.txq ch.toNat).length lim
      rw [List.length_take, hq]
      omega
    have hsize : (subS2c ch (q.take m)).length = 1 + (venc ch).length + (vencNat m).length + m := by
      simp only [subS2c, hlen, List.length_cons, List.length_append]
      omega
    have hplaced : (s.setTxq ch.toNat (q.drop m)).replyBuf.length + (subS2c ch (q.take m)).length ≤
        (s.setTxq ch.toNat (q.drop m)).cfg.replyCap := by
      rw [hsize, State.setTxq_replyBuf, State.setTxq_cfg]
      omega
    dsimp only
    rw [appendReply_fits hplaced, subS2c, hlen]
    rfl

theorem not_registered_of_not_mem {s : State} {ch : BitVec 7} (h : ch ∉ s.cfg.tunnelIds) :
    s.registered ch.toNat = false :=
  registered_eq_false fun _ hid heq => h (BitVec.eq_of_toNat_eq heq ▸ hid)

/-- Settles O58: the branches of the two ports' events. -/
theorem tunnelPorts : Obligations.TunnelPorts := by
  intro s ch n d
  refine ⟨fun hch => ?none, fun hch hbytes => ?read, fun hch a hspace ha => ?write⟩
  case none =>
    exact ⟨if_pos (not_registered_of_not_mem hch), if_pos (not_registered_of_not_mem hch)⟩
  case read =>
    show execTRead ch n s = _
    simp only [execTRead, registered_of_mem hch, hbytes, Bool.true_eq_false, if_false]
  case write =>
    subst ha
    show execTWrite ch d s = _
    simp only [execTWrite, registered_of_mem hch, not_le.mpr hspace, Bool.true_eq_false, if_false]

end Sys2Proof.Machine
end

section
/-! The write and read subframes in the dispatch unit (45_dispatch R295, R296, R300 to R331). A write is its store calls and
then `append_reply` of each error. A read looks at its registers lazily; that its reply is the one of reading them all at
once is an induction over the reply's subframes. -/

namespace Sys2Proof.Machine

/-! ### Writes (45_dispatch R295) -/

/-- The errors of a write are `append_reply` of each, and any of them makes a reply needed (45_dispatch R295). -/
theorem appendErrors_eq_appendItems (errs : List (Word × Word)) {s : State} (habort : s.abort = false) :
    appendErrors errs s = appendItems (errs.map (fun e => subErr 0x30#8 e.1 e.2))
      { s with need := s.need || !errs.isEmpty } := by
  induction errs generalizing s with
  | nil => simp [appendErrors, appendItems]
  | cons e errs ih =>
    obtain ⟨g, e⟩ := e
    have hneed : (appendReply (subErr 0x30#8 g e) { s with need := true }).need = true := by
      unfold appendReply
      split <;> rfl
    have hstart : ({ s with need := s.need || !((g, e) :: errs).isEmpty } : State) = { s with need := true } := by
      simp
    rw [hstart, List.map_cons, appendItems_cons _ _ (s := { s with need := true }) habort, appendErrors]
    generalize appendReply (subErr 0x30#8 g e) { s with need := true } = t at hneed ⊢
    cases hfull : t.abort with
    | true => exact (appendItems_abort _ hfull).symm
    | false =>
      have hsame : ({ t with need := t.need || !errs.isEmpty } : State) = t := by
        rw [hneed, Bool.true_or, ← hneed]
      rw [← hsame, ← ih hfull, hsame]
      rfl

/-- A write is a subframe (30_encoding R100). -/
theorem language_of_writeView {i : Instr} {p : Word × List Value} (h : i.writeView = some p) : i.language = .subframe := by
  cases i <;> first | rfl | cases h

theorem exec_write {i : Instr} {s : State} {reg : Word} {vals : List Value} (hview : i.writeView = some (reg, vals))
    (hparser : s.parser = .dispatch) : exec i s = .next (writeOp reg vals (encode i).length s) := by
  rw [exec_eq_inner (.inr (language_of_writeView hview)), inner_write hview, inParser_dispatch hparser, encode_length]

/-- Settles O50: the store calls by `storeWrites_eq`, the errors by `appendErrors_eq_appendItems`. -/
theorem writeSubframes : Obligations.WriteSubframes := by
  intro i s reg vals errs hview hparser habort herrs
  rw [exec_write hview hparser, writeOp, storeWrites_eq]
  dsimp only
  rw [← herrs, appendErrors_eq_appendItems errs (by exact habort)]

/-! ### Runs of values (45_dispatch R296) -/

/-- The answers begin with the first register's. -/
theorem answersOf_succ (s : State) (t : VType) (n : Nat) (g : Word) :
    answersOf s t (n + 1) g = (g, s.storeRead g t) :: answersOf s t n (g + 1#32) := by
  simp only [answersOf, List.range_succ_eq_map, List.map_cons, List.map_map, BitVec.add_zero, List.cons.injEq, true_and]
  refine List.map_congr_left fun x _ => ?_
  have hnext : g + BitVec.ofNat 32 (x + 1) = g + 1#32 + BitVec.ofNat 32 x := by
    rw [BitVec.add_assoc, ← BitVec.ofNat_add, Nat.add_comm]
  simp only [Function.comp, Nat.succ_eq_add_one, hnext]

theorem readRun_of_error {s : State} {t : VType} {g e : Word} (h : s.storeRead g t = .error e) (n : Nat) :
    readRun s t n g = [] := by
  cases n with
  | zero => rfl
  | succ n => simp only [readRun, h]

theorem readRun_of_ok {s : State} {t : VType} {g : Word} {v : Value} (h : s.storeRead g t = .ok v) (n : Nat) :
    readRun s t (n + 1) g = v :: readRun s t n (g + 1#32) := by
  simp only [readRun, h]

/-- The run of fewer registers is the run's beginning. -/
theorem readRun_min (s : State) (t : VType) (n k : Nat) (g : Word) :
    readRun s t (min n k) g = (readRun s t n g).take k := by
  induction n generalizing k g with
  | zero => simp [readRun]
  | succ n ih =>
    cases k with
    | zero => simp [readRun]
    | succ k =>
      rw [Nat.succ_min_succ]
      cases h : s.storeRead g t with
      | error e => simp only [readRun_of_error h, List.take_nil]
      | ok v => simp only [readRun_of_ok h, List.take_succ_cons, ih]

theorem readRun_length_le (s : State) (t : VType) (n : Nat) (g : Word) : (readRun s t n g).length ≤ n := by
  induction n generalizing g with
  | zero => exact le_rfl
  | succ n ih =>
    cases h : s.storeRead g t with
    | error e => simp [readRun_of_error h]
    | ok v => simpa [readRun_of_ok h] using ih (g + 1#32)

/-- A run that has ended within `k` registers is the same for any number of registers from there on. -/
theorem readRun_of_ended {s : State} {t : VType} {n k : Nat} {g : Word} (hk : (readRun s t n g).length ≤ k)
    (hn : k ≤ n) : readRun s t k g = readRun s t n g := by
  have h := readRun_min s t n k g
  rwa [Nat.min_eq_right hn, List.take_of_length_le hk] at h

/-- A run in progress goes on to its end, and the registers after it are answered for anew. -/
theorem readItems_of_run (s : State) (t : VType) (h : Word) (vs : List Value) (n : Nat) (g : Word) :
    readItems t (some (h, vs)) (answersOf s t n g) =
      subRw 2 t h (vs ++ readRun s t n g) ::
        readItems t none (answersOf s t (n - (readRun s t n g).length)
          (g + BitVec.ofNat 32 (readRun s t n g).length)) := by
  induction n generalizing vs g with
  | zero => simp [answersOf, readItems, closeRun, readRun]
  | succ n ih =>
    cases hread : s.storeRead g t with
    | error e =>
      rw [readRun_of_error hread]
      simp [answersOf_succ, hread, readItems, closeRun]
    | ok v =>
      have hcount : g + 1#32 + BitVec.ofNat 32 (readRun s t n (g + 1#32)).length =
          g + BitVec.ofNat 32 ((readRun s t n (g + 1#32)).length + 1) := by
        rw [BitVec.add_assoc, ← BitVec.ofNat_add, Nat.add_comm]
      rw [readRun_of_ok hread, answersOf_succ, hread, readItems, ih, List.length_cons, Nat.add_sub_add_right, hcount,
        List.append_assoc, List.singleton_append]

/-- The next subframe of the reply to `n` registers from `g` on, and for how many it answers, as 45_dispatch R296 has it: a
`READ_ERROR`, or the whole maximal run. -/
def wholeItem (s : State) (t : VType) (n : Nat) (g : Word) : Nat × List Byte :=
  match s.storeRead g t with
  | .error e => (1, subErr 0x31#8 g e)
  | .ok _ => ((readRun s t n g).length, subRw 2 t g (readRun s t n g))

theorem wholeItem_of_error {s : State} {t : VType} {g e : Word} (h : s.storeRead g t = .error e) (n : Nat) :
    wholeItem s t n g = (1, subErr 0x31#8 g e) := by
  rw [wholeItem, h]

theorem wholeItem_of_ok {s : State} {t : VType} {g : Word} {v : Value} (h : s.storeRead g t = .ok v) (n : Nat) :
    wholeItem s t n g = ((readRun s t n g).length, subRw 2 t g (readRun s t n g)) := by
  rw [wholeItem, h]

/-- Every subframe of the reply answers for at least one of the registers left, and for no more. -/
theorem wholeItem_count {s : State} {t : VType} {n : Nat} {g : Word} (hn : n ≠ 0) :
    1 ≤ (wholeItem s t n g).1 ∧ (wholeItem s t n g).1 ≤ n := by
  cases hread : s.storeRead g t with
  | error e =>
    rw [wholeItem_of_error hread]
    omega
  | ok v =>
    obtain ⟨n, rfl⟩ := Nat.exists_eq_succ_of_ne_zero hn
    rw [wholeItem_of_ok hread]
    exact ⟨by simp [readRun_of_ok hread], readRun_length_le ..⟩

/-- The reply to `k` registers begins with the first subframe of the reply to `n`, when that answers for at most `k`. -/
theorem readItems_cons {s : State} {t : VType} {n k : Nat} {g : Word} (hk : (wholeItem s t n g).1 ≤ k) (hn : k ≤ n)
    (hk0 : k ≠ 0) :
    readItems t none (answersOf s t k g) =
      (wholeItem s t n g).2 ::
        readItems t none (answersOf s t (k - (wholeItem s t n g).1) (g + BitVec.ofNat 32 (wholeItem s t n g).1)) := by
  obtain ⟨k, rfl⟩ := Nat.exists_eq_succ_of_ne_zero hk0
  cases hread : s.storeRead g t with
  | error e =>
    rw [wholeItem_of_error hread]
    simp [answersOf_succ, hread, readItems, closeRun]
  | ok v =>
    rw [wholeItem_of_ok hread] at hk ⊢
    have hsame : readRun s t (k + 1) g = readRun s t n g := readRun_of_ended hk hn
    have hnext : g + 1#32 + BitVec.ofNat 32 (readRun s t k (g + 1#32)).length =
        g + BitVec.ofNat 32 ((readRun s t k (g + 1#32)).length + 1) := by
      rw [BitVec.add_assoc, ← BitVec.ofNat_add, Nat.add_comm]
    dsimp only
    rw [← hsame, answersOf_succ, hread, readItems, readItems_of_run, readRun_of_ok hread, List.length_cons,
      Nat.succ_eq_add_one, Nat.add_sub_add_right, hnext, List.singleton_append]

/-! ### The lazy read (45_dispatch R296, 20_memory R68) -/

theorem value_bytes_pos (v : Value) : 1 ≤ v.bytes.length := by
  cases v <;> simp [Value.bytes]

/-- A reply subframe is longer than the number of its values. -/
theorem length_lt_subRw (cls : Nat) (t : VType) (g : Word) (vals : List Value) :
    vals.length < (subRw cls t g vals).length := by
  have hbytes : vals.length ≤ (vals.flatMap Value.bytes).length := by
    induction vals with
    | nil => exact le_rfl
    | cons v vals ih =>
      have hpos := value_bytes_pos v
      rw [List.flatMap_cons, List.length_append, List.length_cons]
      omega
  simp only [subRw, List.length_cons, List.length_append]
  omega

/-- Looking at a run only until it is longer than the reply's room changes no outcome: either the machine's subframe is the
rule's, or neither fits. -/
theorem replyItem_eq_or_full (s : State) (t : VType) (n : Nat) (g : Word) :
    replyItem s t n g = wholeItem s t n g ∨
      (s.replyRoom < (replyItem s t n g).2.length ∧ s.replyRoom < (wholeItem s t n g).2.length) := by
  cases hread : s.storeRead g t with
  | error e => exact .inl (by rw [wholeItem_of_error hread, replyItem, hread])
  | ok v =>
    have hitem : replyItem s t n g = (((readRun s t n g).take (s.replyRoom + 1)).length,
        subRw 2 t g ((readRun s t n g).take (s.replyRoom + 1))) := by
      simp only [replyItem, hread, readRun_min]
    rw [wholeItem_of_ok hread, hitem]
    by_cases hlong : s.replyRoom + 1 ≤ (readRun s t n g).length
    · have hcut := length_lt_subRw 2 t g ((readRun s t n g).take (s.replyRoom + 1))
      have hwhole := length_lt_subRw 2 t g (readRun s t n g)
      rw [List.length_take, Nat.min_eq_left hlong] at hcut
      exact .inr ⟨by dsimp only; omega, by dsimp only; omega⟩
    · exact .inl (by rw [List.take_of_length_le (by omega)])

@[simp] theorem appendReply_storeLog (b : List Byte) (s : State) : (appendReply b s).storeLog = s.storeLog := by
  unfold appendReply
  split <;> rfl

@[simp] theorem appendReply_cfg (b : List Byte) (s : State) : (appendReply b s).cfg = s.cfg := by
  unfold appendReply
  split <;> rfl

/-- The answers depend on the writes made only (45_dispatch R282). -/
theorem answersOf_congr {s u : State} (hcfg : u.cfg = s.cfg) (hwrites : madeWrites u.storeLog = madeWrites s.storeLog)
    (t : VType) (n : Nat) (g : Word) : answersOf u t n g = answersOf s t n g := by
  simp only [answersOf, State.storeRead, hcfg, hwrites]

theorem answersOf_recordReads (s : State) (ty t : VType) (h g : Word) (k n : Nat) :
    answersOf (recordReads ty h k s) t n g = answersOf s t n g :=
  answersOf_congr (recordReads_cfg ..) (by simp) t n g

theorem answersOf_appendReply (s : State) (b : List Byte) (t : VType) (n : Nat) (g : Word) :
    answersOf (appendReply b s) t n g = answersOf s t n g :=
  answersOf_congr (appendReply_cfg b s) (by rw [appendReply_storeLog]) t n g

theorem readCalls_add (t : VType) (g : Word) (k m : Nat) :
    readCalls t g (k + m) = readCalls t g k ++ readCalls t (g + BitVec.ofNat 32 k) m := by
  simp only [readCalls, List.range_add, List.map_append, List.map_map, List.append_cancel_left_eq]
  refine List.map_congr_left fun x _ => ?_
  simp only [Function.comp, BitVec.ofNat_add, BitVec.add_assoc]

theorem recordReads_zero (t : VType) (g : Word) (s : State) : recordReads t g 0 s = s := by
  simp [recordReads, readCalls]

theorem recordReads_recordReads (t : VType) (g : Word) (k m : Nat) (s : State) :
    recordReads t (g + BitVec.ofNat 32 k) m (recordReads t g k s) = recordReads t g (k + m) s := by
  simp only [recordReads, readCalls_add, List.append_assoc]

/-- Placing a reply does not look at the record of store calls. -/
theorem appendReply_recordReads (b : List Byte) (t : VType) (g : Word) (k : Nat) (s : State) :
    appendReply b (recordReads t g k s) = recordReads t g k (appendReply b s) := by
  by_cases hfits : s.replyBuf.length + b.length ≤ s.cfg.replyCap
  · rw [appendReply_fits hfits, appendReply_fits (s := recordReads t g k s) hfits]
    rfl
  · rw [appendReply_full (not_le.mp hfits), appendReply_full (s := recordReads t g k s) (not_le.mp hfits)]
    rfl

theorem appendItems_recordReads (bs : List (List Byte)) (t : VType) (g : Word) (k : Nat) (s : State) :
    appendItems bs (recordReads t g k s) = recordReads t g k (appendItems bs s) := by
  induction bs generalizing s with
  | nil => rfl
  | cons b bs ih =>
    by_cases habort : s.abort = true
    · rw [appendItems_abort _ habort, appendItems_abort _ (by exact habort)]
    · rw [Bool.not_eq_true] at habort
      rw [appendItems_cons _ _ habort, appendItems_cons _ _ (by exact habort), appendReply_recordReads, ih]

@[simp] theorem appendItems_storeLog (bs : List (List Byte)) (s : State) :
    (appendItems bs s).storeLog = s.storeLog := by
  induction bs generalizing s with
  | nil => rfl
  | cons b bs ih =>
    simp only [appendItems]
    split
    · rfl
    · rw [ih, appendReply_storeLog]

/-- The reply to `n` registers from `g` on with all of them read at once (45_dispatch R296). -/
def eagerRead (t : VType) (n : Nat) (g : Word) (s : State) : State :=
  appendItems (readItems t none (answersOf s t n g)) s

theorem eagerRead_recordReads (t ty : VType) (n k : Nat) (g h : Word) (s : State) :
    eagerRead t n g (recordReads ty h k s) = recordReads ty h k (eagerRead t n g s) := by
  rw [eagerRead, answersOf_recordReads, appendItems_recordReads, eagerRead]

section
variable {t : VType} {n : Nat} {g : Word} {s : State} (hn : n ≠ 0) (habort : s.abort = false)
include hn habort

/-- The eager reply is its first subframe placed, then the eager reply to the registers after it. -/
theorem eagerRead_cons :
    eagerRead t n g s = eagerRead t (n - (wholeItem s t n g).1) (g + BitVec.ofNat 32 (wholeItem s t n g).1)
      (appendReply (wholeItem s t n g).2 s) := by
  obtain ⟨-, hle⟩ := wholeItem_count (s := s) (t := t) (g := g) hn
  rw [eagerRead, readItems_cons hle le_rfl hn, appendItems_cons _ _ habort, eagerRead,
    answersOf_appendReply]

/-- A first subframe that does not fit is all that the eager reply does. -/
theorem eagerRead_full (hfull : s.cfg.replyCap < s.replyBuf.length + (wholeItem s t n g).2.length) :
    eagerRead t n g s = { s.bump .missingSubframe with abort := true } := by
  obtain ⟨-, hle⟩ := wholeItem_count (s := s) (t := t) (g := g) hn
  rw [eagerRead, readItems_cons hle le_rfl hn, appendItems_full _ habort hfull]

/-- One pass of the machine over the registers left. -/
theorem readRuns_pass (fuel : Nat) :
    readRuns t (fuel + 1) n g s =
      if (appendReply (replyItem s t n g).2 s).abort then
        recordReads t g (min n (Config.surplusReads s.storeLog g t n s.replyRoom)) (appendReply (replyItem s t n g).2 s)
      else readRuns t fuel (n - (replyItem s t n g).1) (g + BitVec.ofNat 32 (replyItem s t n g).1)
        (recordReads t g (replyItem s t n g).1 (appendReply (replyItem s t n g).2 s)) := by
  rw [readRuns, if_neg (by simp [hn, habort])]

end

/-- What a lazy read of `n` registers from `g` on has done when its reply is the eager one: `k` of the registers are answered
for, and `m` reads are recorded (45_dispatch R296; log 22). -/
structure LazyRead (t : VType) (n : Nat) (g : Word) (s : State) (k m : Nat) : Prop where
  reply : (eagerRead t n g s).replyBuf = s.replyBuf ++ (readItems t none (answersOf s t k g)).flatten
  answered : k ≤ m
  recorded : m ≤ n
  all : (eagerRead t n g s).abort = false → k = n

theorem LazyRead.nothing (t : VType) (g : Word) (s : State) : LazyRead t 0 g s 0 0 :=
  ⟨(List.append_nil _).symm, le_rfl, le_rfl, fun _ => rfl⟩

/-- A first subframe that fits is answered for and recorded, before what is left. -/
theorem LazyRead.cons {t : VType} {n : Nat} {g : Word} {s : State} {k m : Nat} (hn : n ≠ 0) (habort : s.abort = false)
    (hfits : s.replyBuf.length + (wholeItem s t n g).2.length ≤ s.cfg.replyCap)
    (h : LazyRead t (n - (wholeItem s t n g).1) (g + BitVec.ofNat 32 (wholeItem s t n g).1)
      (appendReply (wholeItem s t n g).2 s) k m) :
    LazyRead t n g s ((wholeItem s t n g).1 + k) ((wholeItem s t n g).1 + m) := by
  obtain ⟨hpos, hle⟩ := wholeItem_count (s := s) (t := t) (g := g) hn
  obtain ⟨hreply, hanswered, hrecorded, hall⟩ := h
  rw [← eagerRead_cons hn habort] at hreply hall
  refine ⟨?_, by omega, by omega, fun hdone => by rw [hall hdone]; omega⟩
  rw [hreply, answersOf_appendReply, appendReply_fits hfits,
    readItems_cons (Nat.le_add_right _ k) (by omega) (by omega), Nat.add_sub_cancel_left, List.flatten_cons,
    List.append_assoc]

/-- What was recorded before makes no difference (45_dispatch R282). -/
theorem LazyRead.of_recordReads {t ty : VType} {n c : Nat} {g h : Word} {s : State} {k m : Nat}
    (hlazy : LazyRead t n g (recordReads ty h c s) k m) : LazyRead t n g s k m := by
  obtain ⟨hreply, hanswered, hrecorded, hall⟩ := hlazy
  rw [eagerRead_recordReads, answersOf_recordReads] at hreply
  rw [eagerRead_recordReads] at hall
  exact ⟨hreply, hanswered, hrecorded, hall⟩

/-- The machine's passes over a read make the eager reply (45_dispatch R296; log 22). -/
theorem readRuns_lazy (t : VType) (fuel n : Nat) (g : Word) {s : State} (hfuel : n ≤ fuel) (habort : s.abort = false) :
    ∃ k m, LazyRead t n g s k m ∧ readRuns t fuel n g s = recordReads t g m (eagerRead t n g s) := by
  induction fuel generalizing n g s with
  | zero =>
    obtain rfl : n = 0 := Nat.le_zero.mp hfuel
    exact ⟨0, 0, .nothing t g s, (recordReads_zero t g s).symm⟩
  | succ fuel ih =>
    by_cases hn : n = 0
    · subst hn
      exact ⟨0, 0, .nothing t g s, (if_pos (.inl rfl)).trans (recordReads_zero t g s).symm⟩
    have hpass := readRuns_pass (t := t) (g := g) hn habort fuel
    by_cases hfits : s.replyBuf.length + (wholeItem s t n g).2.length ≤ s.cfg.replyCap
    · have hitem : replyItem s t n g = wholeItem s t n g := by
        refine (replyItem_eq_or_full s t n g).resolve_right fun ⟨_, hfull⟩ => ?_
        unfold State.replyRoom at hfull
        omega
      have hplaced : (appendReply (wholeItem s t n g).2 s).abort = false := by
        rw [appendReply_fits hfits]
        exact habort
      obtain ⟨hpos, hle⟩ := wholeItem_count (s := s) (t := t) (g := g) hn
      obtain ⟨k, m, hlazy, hrest⟩ := ih (n - (wholeItem s t n g).1) (g + BitVec.ofNat 32 (wholeItem s t n g).1)
        (s := recordReads t g (wholeItem s t n g).1 (appendReply (wholeItem s t n g).2 s)) (by omega) hplaced
      refine ⟨_, _, hlazy.of_recordReads.cons hn habort hfits, ?_⟩
      rw [hpass, hitem, if_neg (by simp [hplaced]), hrest, eagerRead_recordReads, recordReads_recordReads,
        ← eagerRead_cons hn habort]
    · have hfull := not_le.mp hfits
      have hitem : s.cfg.replyCap < s.replyBuf.length + (replyItem s t n g).2.length := by
        rcases replyItem_eq_or_full s t n g with heq | ⟨hitem, -⟩
        · rwa [heq]
        · unfold State.replyRoom at hitem
          omega
      rw [appendReply_full hitem, if_pos rfl, ← eagerRead_full hn habort hfull] at hpass
      refine ⟨0, _, ⟨?_, Nat.zero_le _, Nat.min_le_left .., fun hdone => ?_⟩, hpass⟩
      · rw [eagerRead_full hn habort hfull]
        exact (List.append_nil _).symm
      · rw [eagerRead_full hn habort hfull] at hdone
        cases hdone

/-- A read is a subframe (30_encoding R100). -/
theorem language_of_readView {i : Instr} {p : VType × Nat × Word} (h : i.readView = some p) : i.language = .subframe := by
  cases i <;> first | rfl | cases h

theorem exec_read {i : Instr} {s : State} {t : VType} {n : Nat} {reg : Word} (hview : i.readView = some (t, n, reg))
    (hparser : s.parser = .dispatch) : exec i s = .next (readOp t n reg (encode i).length s) := by
  rw [exec_eq_inner (.inr (language_of_readView hview)), inner_read hview, inParser_dispatch hparser, encode_length]

/-- Settles O51: the lazy read of all the subframe's registers from the state in which the pointer has moved. -/
theorem readSubframes : Obligations.ReadSubframes := by
  intro i s t n reg hview hparser habort
  obtain ⟨k, m, ⟨hreply, hanswered, hrecorded, hall⟩, hruns⟩ := readRuns_lazy t n n reg
    (s := { s with need := true, pp := s.pp + (encode i).length }) le_rfl habort
  refine ⟨_, k, m, rfl, ?_, hreply, hanswered, hrecorded, hall⟩
  rw [exec_read hview hparser, readOp, hruns, recordReads, eagerRead, appendItems_storeLog]
  rfl

end Sys2Proof.Machine
end

section
/-! Bytes that are no whole subframe (45_dispatch R291, R292, R295; 44_subframe_codec R244, R262): what the dispatch unit
counts for them, the complete values of a short write, and the end of the reply parse. -/

namespace Sys2Proof.Machine

/-! ### The pass at an undecoded subframe (45_dispatch R288) -/

section
variable {s : State} {code : Byte} {rest : List Byte} (hbytes : s.payload.drop s.pp = code :: rest)
include hbytes

/-- An unassigned code (45_dispatch R291). -/
theorem dispatchFetch_of_unknown (hdec : decodeSub s.cfg (code :: rest) = .error .unknownCode) :
    dispatchFetch s = .done (.next (unknownSub s)) := by
  simp only [dispatchFetch, hbytes, hdec]

/-- A short subframe of a code that the unit accepts (45_dispatch R292). -/
theorem dispatchFetch_of_short (hdec : decodeSub s.cfg (code :: rest) = .error .short)
    (haccepts : dispatchAccepts code = true) : dispatchFetch s = .done (.next (shortSub code rest s)) := by
  simp only [dispatchFetch, hbytes, hdec, haccepts, if_true]

/-- A short subframe of a code that it does not accept (45_dispatch R291). -/
theorem dispatchFetch_of_refused (hdec : decodeSub s.cfg (code :: rest) = .error .short)
    (haccepts : dispatchAccepts code = false) : dispatchFetch s = .done (.next (unknownSub s)) := by
  simp only [dispatchFetch, hbytes, hdec, haccepts, Bool.false_eq_true, if_false]

/-- No undecoded subframe is anything else (45_dispatch R291, R292). -/
theorem dispatchFetch_of_error {e : DecodeError} (hdec : decodeSub s.cfg (code :: rest) = .error e) :
    dispatchFetch s = .done (.next (unknownSub s)) ∨ dispatchFetch s = .done (.next (shortSub code rest s)) := by
  cases e with
  | short =>
    cases haccepts : dispatchAccepts code with
    | true => exact .inr (dispatchFetch_of_short hbytes hdec haccepts)
    | false => exact .inl (dispatchFetch_of_refused hbytes hdec haccepts)
  | _ => exact .inl (by simp only [dispatchFetch, hbytes, hdec])

end

/-- A pass that runs no instruction is the step's outcome. -/
theorem step_of_dispatchFetch_done {s : State} {o : Out} (hparser : s.parser = .dispatch)
    (hdone : s.dispatchDone = false) (hfetch : dispatchFetch s = .done o) : step s = o := by
  rw [step, fetch_dispatch hparser hdone, hfetch]

/-- The codes that the dispatch unit accepts (45_dispatch R288). -/
theorem dispatchAccepts_iff {code : Byte} :
    dispatchAccepts code = true ↔ code.toNat < 0x20 ∨ code = 0x40#8 ∨ code = 0x42#8 ∨ code = 0x50#8 := by
  simp [dispatchAccepts, or_assoc]

/-- The reply-direction codes are not among them (45_dispatch R291). -/
theorem dispatchAccepts_replyCode {code : Byte} (h : (0x20 ≤ code.toNat ∧ code.toNat ≤ 0x31) ∨ code = 0x41#8) :
    dispatchAccepts code = false := by
  rw [Bool.eq_false_iff, Ne, dispatchAccepts_iff]
  rcases h with ⟨hlow, hhigh⟩ | rfl
  · rintro (hlt | rfl | rfl | rfl)
    · omega
    all_goals exact absurd hhigh (by decide)
  · decide

/-! ### Short subframes (45_dispatch R292, R295) -/

/-- A short subframe that is no write is malformed and nothing else. -/
theorem shortSub_of_not_write {code : Byte} (rest : List Byte) (s : State) (h : 0x10 ≤ code.toNat) :
    shortSub code rest s = malformedSub s := by
  simp [shortSub, not_lt.mpr h]

/-- So is a short write, unless `PARTIAL_WRITE_ON_TRUNCATION` is set and its header is complete. -/
theorem shortSub_of_header {code : Byte} {rest : List Byte} {s : State}
    (h : s.cfg.partialWrite = false ∨ writeHeader s.cfg code rest = none) : shortSub code rest s = malformedSub s := by
  have hpartial (hnone : writeHeader s.cfg code rest = none) : partialWrite code rest s = malformedSub s := by
    simp only [partialWrite, hnone]
  unfold shortSub
  rcases h with hoff | hnone
  · rw [hoff, Bool.false_and]
    rfl
  · rw [hpartial hnone, ite_self]

/-- The count field of a code is 0 exactly when the count is explicit (30_encoding R84). -/
theorem countBits_eq_zero_iff (code : Byte) : code.extractLsb' 0 2 = 0#2 ↔ code.toNat % 4 = 0 := by
  rw [← BitVec.toNat_inj, BitVec.extractLsb'_toNat, Nat.shiftRight_zero]
  rfl

/-- The type of a write's code (30_encoding R84). -/
theorem ofIndex_of_code {code : Byte} {t : VType} (hcode : code.toNat ≤ 0x0F) (ht : t.index = code.toNat / 4) :
    VType.ofIndex (code.extractLsb' 2 2).toNat = t := by
  have hindex : (code.extractLsb' 2 2).toNat = t.index := by
    rw [BitVec.extractLsb'_toNat, Nat.shiftRight_eq_div_pow, ht]
    omega
  rw [hindex]
  cases t <;> rfl

/-- The header of a write reads back, whatever comes after it (45_dispatch R295). -/
theorem writeHeader_bytes (c : Config) (code : Byte) {n r : VarU} (hn : n.wf) (hr : r.wf) (l : List Byte) :
    writeHeader c code ((if code.toNat % 4 = 0 then n.bytes else []) ++ r.bytes ++ l) = some (r.value, l) := by
  by_cases hcount : code.toNat % 4 = 0
  · simp only [writeHeader, if_pos ((countBits_eq_zero_iff code).mpr hcount), if_pos hcount, List.append_assoc,
      takeVar_bytes c hn, takeVar_bytes c hr]
  · simp only [writeHeader, if_neg (mt (countBits_eq_zero_iff code).mp hcount), if_neg hcount, List.nil_append,
      takeVar_bytes c hr]

/-- A Value has its type's width, and reads back (44_subframe_codec R220, R221). -/
theorem value_bytes_length (v : Value) : v.bytes.length = v.type.width := by
  cases v <;> rfl

theorem value_read_bytes (v : Value) (l : List Byte) : Value.read v.type (v.bytes ++ l) = v := by
  cases v with
  | i8 b => rfl
  | i16 b => exact congrArg Value.i16 (rd16_le16 b l)
  | i32 b => exact congrArg Value.i32 (rd32_le32 b l)
  | f32 b => exact congrArg Value.f32 (rd32_le32 b l)

section
variable {t : VType} {vals : List Value} (htype : ∀ v ∈ vals, v.type = t)
include htype

theorem values_bytes_length : (vals.flatMap Value.bytes).length = vals.length * t.width := by
  induction vals with
  | nil => simp
  | cons v vals ih =>
    obtain ⟨hv, hvals⟩ := List.forall_mem_cons.mp htype
    rw [List.flatMap_cons, List.length_append, value_bytes_length, hv, ih hvals, List.length_cons, Nat.succ_mul,
      Nat.add_comm]

/-- Values of one type read back from the front of a byte string (30_encoding R91). -/
theorem takeVals_values (l : List Byte) :
    takeVals t.width (Value.read t) vals.length (vals.flatMap Value.bytes ++ l) = vals := by
  induction vals with
  | nil => rfl
  | cons v vals ih =>
    obtain ⟨rfl, hvals⟩ := List.forall_mem_cons.mp htype
    rw [List.length_cons, takeVals, List.flatMap_cons, List.append_assoc, value_read_bytes,
      List.drop_left' (value_bytes_length v), ih hvals]

/-- The complete values before a cut are as many as their width allows (45_dispatch R295). -/
theorem complete_values_count {cut : List Byte} (hcut : cut.length < t.width) :
    (vals.flatMap Value.bytes ++ cut).length / t.width = vals.length := by
  rw [List.length_append, values_bytes_length htype, Nat.mul_comm, Nat.mul_add_div (by omega), Nat.div_eq_of_lt hcut,
    Nat.add_zero]

end

theorem appendItems_cfg (bs : List (List Byte)) (s : State) : (appendItems bs s).cfg = s.cfg := by
  induction bs generalizing s with
  | nil => rfl
  | cons b bs ih =>
    simp only [appendItems]
    split
    · rfl
    · rw [ih, appendReply_cfg]

/-- A short write with its header complete: the complete values are written and their errors appended, then the subframe is
counted malformed (45_dispatch R295; log 20). -/
theorem partialWrite_eq {s : State} {code : Byte} {rest : List Byte} {n r : VarU} {t : VType} {vals : List Value}
    {cut : List Byte} (habort : s.abort = false) (hcode : code.toNat ≤ 0x0F) (hn : n.wf) (hr : r.wf)
    (ht : t.index = code.toNat / 4) (htype : ∀ v ∈ vals, v.type = t) (hcut : cut.length < t.width)
    (hrest : rest = (if code.toNat % 4 = 0 then n.bytes else []) ++ r.bytes ++ vals.flatMap Value.bytes ++ cut) :
    partialWrite code rest s =
      malformedSub (appendItems
        ((errorsOf s.cfg.store (madeWrites s.storeLog) (writesOf r.value vals)).map (fun e => subErr 0x30#8 e.1 e.2))
        { s with
          storeLog := s.storeLog ++ (writesOf r.value vals).map .write
          need := s.need || !(errorsOf s.cfg.store (madeWrites s.storeLog) (writesOf r.value vals)).isEmpty }) := by
  have hheader : writeHeader s.cfg code rest = some (r.value, vals.flatMap Value.bytes ++ cut) := by
    rw [hrest, List.append_assoc _ _ cut, writeHeader_bytes _ _ hn hr]
  simp only [partialWrite, hheader, ofIndex_of_code hcode ht, complete_values_count htype hcut, takeVals_values htype,
    storeWrites_eq]
  rw [appendErrors_eq_appendItems _ (by exact habort)]

/-- Settles O55: by the code of the subframe, and for the reply parser by `replyFetch`. -/
theorem undecodedSubframes : Obligations.UndecodedSubframes := by
  intro s
  refine ⟨fun code rest hparser hlt habort htunnel hbytes => ?dispatch, fun hparser hlt e hdec => ?reply⟩
  case dispatch =>
    have hdone : s.dispatchDone = false := dispatchDone_eq_false_iff.mpr ⟨hlt, habort, htunnel⟩
    refine ⟨fun hdec => step_of_dispatchFetch_done hparser hdone (dispatchFetch_of_unknown hbytes hdec), fun hdec => ?_⟩
    have hrefused (h : (0x20 ≤ code.toNat ∧ code.toNat ≤ 0x31) ∨ code = 0x41#8) : step s = .next (unknownSub s) :=
      step_of_dispatchFetch_done hparser hdone (dispatchFetch_of_refused hbytes hdec (dispatchAccepts_replyCode h))
    have hshort (h : code.toNat < 0x20 ∨ code = 0x40#8 ∨ code = 0x42#8 ∨ code = 0x50#8) :
        step s = .next (shortSub code rest s) :=
      step_of_dispatchFetch_done hparser hdone (dispatchFetch_of_short hbytes hdec (dispatchAccepts_iff.mpr h))
    refine ⟨fun h => hrefused (.inl h), fun h => hrefused (.inr h), fun h => ?malformed, fun hcode h => ?whole,
      fun hcode hpartial n r t vals cut errs u hn hr ht htype hcut hrest herrs hu => ?partly⟩
    case malformed =>
      have hlow : 0x10 ≤ code.toNat := by
        rcases h with ⟨hlow, -⟩ | rfl | rfl
        · exact hlow
        all_goals decide
      have haccepts : code.toNat < 0x20 ∨ code = 0x40#8 ∨ code = 0x42#8 ∨ code = 0x50#8 := by
        rcases h with ⟨-, hhigh⟩ | hcode | hcode
        · exact .inl (by omega)
        · exact .inr (.inl hcode)
        · exact .inr (.inr (.inl hcode))
      rw [hshort haccepts, shortSub_of_not_write rest s hlow]
      rfl
    case whole =>
      rw [hshort (.inl (by omega)), shortSub_of_header h]
      rfl
    case partly =>
      have hwrite : shortSub code rest s = partialWrite code rest s := by
        rw [shortSub, hpartial, Bool.true_and, if_pos (by simpa using Nat.lt_succ_of_le hcode)]
      have hcfg : u.cfg = s.cfg := by rw [hu, appendItems_cfg]
      rw [hshort (.inl (by omega)), hwrite, partialWrite_eq habort hcode hn hr ht htype hcut hrest, ← herrs, ← hu,
        ← hcfg]
      rfl
  case reply =>
    have hfetch : replyFetch s = .done (.next (replyStop s)) := by
      simp only [replyFetch, hdec]
    rw [step, fetch_reply hparser (replyDone_eq_false_iff.mpr ⟨hparser, hlt⟩), hfetch]
    rfl

end Sys2Proof.Machine
end

section
/-! The dispatch step as a whole (45_dispatch R287 to R294): the reply or the armed read after the parse, and what a parse
counts, pass by pass. -/

namespace Sys2Proof.Machine

/-! ### After the parse (45_dispatch R287, R293) -/

/-- A reply that fits is put into the idle transmitter (45_dispatch R293). -/
theorem sendReply_eq_replied {u : State} (s0 : State) (htx : u.txState ≠ .busy)
    (hfits : txOversize u.cfg [u.replyFrame] = false) : sendReply s0 { u with parser := .none } = .next u.replied := by
  have hbytes : [u.replyFrame].flatMap (encodeFrame u.cfg) = encodeFrame u.cfg u.replyFrame := by
    rw [List.flatMap_cons, List.flatMap_nil, List.append_nil]
  refine (if_neg htx).trans
    ((startTx_busy s0 .server (s := { u with parser := .none, srvState := .replyAssembled }) hfits
      (batch_ne_nil u.cfg (List.cons_ne_nil u.replyFrame []))).trans ?_)
  dsimp only
  rw [hbytes]
  rfl

section
variable {s u : State} (h : s.Inv) (hsrv : s.srvState = .frameReceived) (hstep : DispatchStep s.parsing u)
include h hsrv hstep

/-- After any parse the reply goes out if one is needed and may be sent; otherwise the read is armed (45_dispatch
R287). -/
theorem dispatchConclude_eq (s0 : State) :
    dispatchConclude s0 u = .next (if u.need = true ∧ ¬(s.rxfDst = 0x7F#8 ∧ s.rxfRr = false) then u.replied
      else ({ u with parser := .none } : State).rearmed) := by
  have hcfg : u.cfg = s.cfg := hstep.cfg
  have hsend : u.sendOk = s.sendOk := hstep.sendOk
  have hreply : u.replyBuf.length ≤ s.cfg.replyCap := hstep.reply (Nat.zero_le _)
  obtain ⟨hidle, -⟩ := reply_fits_of_inv h hsrv hstep
  obtain ⟨-, hrx, -⟩ := h.received hsrv
  obtain ⟨hrx', -⟩ := hstep.framer
  obtain ⟨hwf, -⟩ := h
  by_cases hdue : u.need = true ∧ ¬(s.rxfDst = 0x7F#8 ∧ s.rxfRr = false)
  · obtain ⟨hneed, hloud⟩ := hdue
    have hfits : txOversize u.cfg [u.replyFrame] = false :=
      replyFrame_fits (by rw [hcfg]; exact hwf) (by rw [hcfg]; exact hreply)
    rw [dispatchConclude_reply (by rw [hneed, hsend, sendOk_of_not_silent hloud]; rfl), if_pos ⟨hneed, hloud⟩,
      sendReply_eq_replied s0 hidle hfits]
  · have hquiet : (u.need && u.sendOk) = false := by
      rw [Bool.and_eq_false_iff, hsend, sendOk_eq_false_iff]
      by_cases hneed : u.need = true
      · exact .inr (not_not.mp fun hloud => hdue ⟨hneed, hloud⟩)
      · exact .inl (Bool.eq_false_iff.mpr hneed)
    rw [dispatchConclude_finish hquiet, if_neg hdue]
    exact finish_eq_rearmed s0 (hrx'.trans hrx)

/-- `SRV_DISPATCH` of a frame to the block is its parse and what follows it (45_dispatch R287). -/
theorem exec_srvDispatch_eq (haddr : s.rxfDst = s.nodeId &&& 0x7F#8 ∨ s.rxfDst = 0x7F#8)
    (hloop : dispatchLoop s.payload.length s.parsing = .next u) :
    exec .srvDispatch s = .next (if u.need = true ∧ ¬(s.rxfDst = 0x7F#8 ∧ s.rxfRr = false) then u.replied
      else ({ u with parser := .none } : State).rearmed) := by
  obtain ⟨-, -, -, hwhole⟩ := h.received hsrv
  show execSrvDispatch s = _
  rw [execSrvDispatch_parse hsrv (isAddressed_iff.mpr haddr) hwhole.ge, hloop]
  exact dispatchConclude_eq h hsrv hstep _

end

/-- Settles O49: the loop on the encoded subframes is `dispatchAll`. -/
theorem dispatchInOrder : Obligations.DispatchInOrder := by
  intro s is h hsrv haddr hpayload hwf
  obtain ⟨-, -, -, hwhole⟩ := h.received hsrv
  obtain ⟨u, hloop, hstep, -⟩ := parsing_ends s
  have hall : s.payload = is.flatMap encode := by
    rw [State.payload, ← hwhole, List.take_length, hpayload]
  have hsame : dispatchLoop s.payload.length s.parsing = dispatchAll is s.parsing :=
    dispatchLoop_eq_dispatchAll is _ rfl hwf hall (by rw [hall])
  exact ⟨u, hsame.symm.trans hloop, exec_srvDispatch_eq h hsrv hstep haddr hloop⟩

/-! ### What a parse counts (45_dispatch R291, R292, R333; 60_exceptions R367) -/

/-- A tunnel reply is placed, or counted missing (45_dispatch R335). -/
theorem Placed.build {s : State} (habort : s.abort = false) (ch : Word) (lim : Option Nat) :
    Placed s (buildS2c ch lim s) := by
  cases hsend : s.sendOk with
  | false =>
    rw [buildS2c_silent ch lim hsend]
    exact ⟨rfl, rfl, rfl, .inl ⟨habort, rfl⟩⟩
  | true =>
    rw [buildS2c_of_sendOk ch lim hsend]
    split
    · exact ⟨rfl, rfl, rfl, .inr ⟨rfl, rfl⟩⟩
    · obtain ⟨hcfg, hneed, htunnel, hcounts⟩ := Placed.append (s := s.setTxq _ _) habort _
      exact ⟨hcfg, hneed, htunnel, hcounts⟩

/-- The counts from `s` to `t`: an overrun `o`, which ends the parse after its tunnel subframe, the cause `e` of an abort, and
the second count `m` of a short write whose error does not fit (log 20). -/
structure CountedAs (s t : State) (o e m : Option Counter) : Prop where
  overrun : o = none ∨ (o = some .receiveOverrun ∧ t.tunnelSeen = true)
  cause : e = none ∨ e = some .unknownSubframe ∨ e = some .malformedSubframe ∨ e = some .missingSubframe
  aborted : e.isSome = true ↔ t.abort = true
  short : m = none ∨ (m = some .malformedSubframe ∧ e = some .missingSubframe ∧ s.cfg.partialWrite = true)
  stats : t.stats = ((s.stats.bumpOpt s.cfg.statsWidth o).bumpOpt s.cfg.statsWidth e).bumpOpt s.cfg.statsWidth m

/-- What any part of a parse does to `NEED` and to the counters. -/
structure Tally (s t : State) : Prop where
  need : s.need = true → t.need = true
  counted : ∃ o e m, CountedAs s t o e m

/-- Replies placed after a tunnel subframe's marks and counts, or after no marks. -/
theorem Placed.tally {s u t : State} (h : Placed u t) (o : Option Counter)
    (ho : o = none ∨ (o = some .receiveOverrun ∧ u.tunnelSeen = true)) (hcfg : u.cfg = s.cfg)
    (hneed : s.need = true → u.need = true) (hstats : u.stats = s.stats.bumpOpt s.cfg.statsWidth o) : Tally s t := by
  obtain ⟨-, htneed, htunnel, hcounts⟩ := h
  rw [hcfg, hstats] at hcounts
  rw [← htunnel] at ho
  refine ⟨fun hs => htneed.trans (hneed hs), ?_⟩
  rcases hcounts with ⟨habort, hsame⟩ | ⟨habort, hbump⟩
  · exact ⟨o, none, none, ho, .inl rfl, by simp [habort], .inl rfl, hsame⟩
  · exact ⟨o, some .missingSubframe, none, ho, .inr (.inr (.inr rfl)), by simp [habort], .inl rfl, hbump⟩

theorem Tally.unknown (s : State) : Tally s (unknownSub s) :=
  ⟨id, none, some .unknownSubframe, none, .inl rfl, .inr (.inl rfl), by simp, .inl rfl, rfl⟩

theorem Tally.malformed (s : State) : Tally s (malformedSub s) :=
  ⟨id, none, some .malformedSubframe, none, .inl rfl, .inr (.inr (.inl rfl)), by simp, .inl rfl, rfl⟩

/-- Nothing counted, and the parse goes on. -/
theorem Tally.quiet {s t : State} (hneed : t.need = s.need) (habort : t.abort = false) (hstats : t.stats = s.stats) :
    Tally s t :=
  ⟨fun hs => hneed.trans hs, none, none, none, .inl rfl, .inl rfl, by simp [habort], .inl rfl, hstats⟩

/-- A parse that goes on has counted nothing. -/
theorem Tally.stats_eq {s t : State} (h : Tally s t) (habort : t.abort = false) (htunnel : t.tunnelSeen = false) :
    t.stats = s.stats := by
  obtain ⟨-, o, e, m, ho, -, haborted, hm, hstats⟩ := h
  have ho' : o = none := ho.resolve_right fun ⟨_, hseen⟩ => by simp [htunnel] at hseen
  have he : e = none := by
    rw [← Option.not_isSome_iff_eq_none, haborted, habort]
    exact Bool.false_ne_true
  have hm' : m = none := hm.resolve_right fun ⟨_, hmissing, _⟩ => by simp [he] at hmissing
  rw [hstats, ho', he, hm']
  rfl

theorem Tally.trans {s t u : State} (h : Tally s t) (hcfg : t.cfg = s.cfg) (habort : t.abort = false)
    (htunnel : t.tunnelSeen = false) (k : Tally t u) : Tally s u := by
  have hstats := h.stats_eq habort htunnel
  obtain ⟨hneed, o, e, m, ho, he, haborted, hm, hcount⟩ := k
  rw [hcfg] at hm
  rw [hcfg, hstats] at hcount
  exact ⟨hneed ∘ h.need, o, e, m, ho, he, haborted, hm, hcount⟩

/-- A short write that reports errors first may count two (45_dispatch R290, R295; log 20). -/
theorem Placed.tally_malformed {s u t : State} (h : Placed u t) (hpartial : s.cfg.partialWrite = true)
    (hcfg : u.cfg = s.cfg) (hneed : s.need = true → u.need = true) (hstats : u.stats = s.stats) :
    Tally s (malformedSub t) := by
  obtain ⟨htcfg, htneed, -, hcounts⟩ := h
  have hbump : (malformedSub t).stats = t.stats.bump s.cfg.statsWidth .malformedSubframe := by
    rw [← hcfg, ← htcfg]
    rfl
  rw [hcfg, hstats] at hcounts
  refine ⟨fun hs => htneed.trans (hneed hs), ?_⟩
  rcases hcounts with ⟨-, hsame⟩ | ⟨-, hmissing⟩
  · rw [hsame] at hbump
    exact ⟨none, some .malformedSubframe, none, .inl rfl, .inr (.inr (.inl rfl)), by simp, .inl rfl, hbump⟩
  · rw [hmissing] at hbump
    exact ⟨none, some .missingSubframe, some .malformedSubframe, .inl rfl, .inr (.inr (.inr rfl)), by simp,
      .inr ⟨rfl, rfl, hpartial⟩, hbump⟩

/-- A subframe of the reply direction (45_dispatch R291). -/
theorem reply_tally {i : Instr} {s t : State} (hparser : s.parser = .dispatch) (h : exec i s = .next t)
    (hi : recordsOf i ≠ none ∨ ∃ (ch len : VarU) (data : List Byte), i = .tunnelS2c ch len data) : Tally s t := by
  rw [replySubframesUnknown i s hparser hi] at h
  cases h
  exact .unknown s

section
variable {s : State} (habort : s.abort = false)
include habort

/-- A short subframe (45_dispatch R292, R295). -/
theorem shortSub_tally (code : Byte) (rest : List Byte) : Tally s (shortSub code rest s) := by
  by_cases hwrite : 0x10 ≤ code.toNat
  · rw [shortSub_of_not_write rest s hwrite]
    exact .malformed s
  cases hpartial : s.cfg.partialWrite with
  | false =>
    rw [shortSub_of_header (.inl hpartial)]
    exact .malformed s
  | true =>
    cases hheader : writeHeader s.cfg code rest with
    | none =>
      rw [shortSub_of_header (.inr hheader)]
      exact .malformed s
    | some p =>
      have hshort : shortSub code rest s = partialWrite code rest s := by
        simp [shortSub, hpartial, not_le.mp hwrite]
      rw [hshort]
      simp only [partialWrite, hheader, storeWrites_eq]
      rw [appendErrors_eq_appendItems _ (by exact habort)]
      exact (Placed.items (by exact habort) _).tally_malformed hpartial rfl (fun hs => by simp [hs]) rfl

variable (hparser : s.parser = .dispatch)
include hparser

theorem tunnelC2s_tally (ch len : VarU) (d : List Byte) {t : State} (h : exec (.tunnelC2s ch len d) s = .next t) :
    Tally s t := by
  rw [exec_tunnelC2s hparser] at h
  cases h
  cases hch : s.registered ch.value.toNat with
  | false =>
    obtain ⟨hdata, -⟩ := tunnel_unregistered hch d 0#32 (encode (.tunnelC2s ch len d)).length
    rw [hdata]
    exact .unknown s
  | true =>
    rw [tunnelData_registered d _ hch rfl rfl]
    by_cases hover : min d.length (s.cfg.tunnelRxCap - (s.rxq ch.value.toNat).length) < d.length
    · exact Placed.tally (Placed.build (by exact habort) _ _) (some .receiveOverrun) (.inr ⟨rfl, rfl⟩) rfl (fun _ => rfl)
        (if_pos hover)
    · exact Placed.tally (Placed.build (by exact habort) _ _) none (.inl rfl) rfl (fun _ => rfl) (if_neg hover)

theorem tunnelPoll_tally (ch m : VarU) {t : State} (h : exec (.tunnelPoll ch m) s = .next t) : Tally s t := by
  rw [exec_tunnelPoll hparser] at h
  cases h
  cases hch : s.registered ch.value.toNat with
  | false =>
    obtain ⟨-, hpoll⟩ := tunnel_unregistered hch [] m.value (encode (.tunnelPoll ch m)).length
    rw [hpoll]
    exact .unknown s
  | true =>
    rw [tunnelPoll_registered _ _ hch]
    exact (Placed.build (by exact habort) ch.value _).tally none (.inl rfl) rfl (fun _ => rfl) rfl

/-- EVERYTHING A SUBFRAME CAN COUNT in the dispatch unit. -/
theorem exec_tally {i : Instr} {t : State} (hsub : i.language = .subframe) (h : exec i s = .next t) : Tally s t := by
  rcases subframe_kinds hsub with ⟨⟨reg, vals⟩, hview⟩ | ⟨⟨ty, n, reg⟩, hview⟩ | ⟨p, hview⟩ | ⟨r, e, rfl⟩ |
    ⟨r, e, rfl⟩ | ⟨ch, len, d, rfl⟩ | ⟨ch, len, d, rfl⟩ | ⟨ch, m, rfl⟩ | rfl
  · rw [writeSubframes i s reg vals _ hview hparser habort rfl] at h
    cases h
    exact (Placed.items (by exact habort) _).tally none (.inl rfl) rfl (fun hs => by simp [hs]) rfl
  · obtain ⟨u, k, m, hu, hexec, -⟩ := readSubframes i s ty n reg hview hparser habort
    rw [hexec] at h
    cases h
    have htally : Tally s u := by
      rw [hu]
      exact (Placed.items (by exact habort) _).tally none (.inl rfl) rfl (fun _ => rfl) rfl
    obtain ⟨hneed, o, e, m, ho, he, haborted, hm, hstats⟩ := htally
    exact ⟨hneed, o, e, m, ho, he, haborted, hm, hstats⟩
  · exact reply_tally hparser h (.inl (by rw [recordsOf_of_replyView hview]; exact Option.some_ne_none _))
  · exact reply_tally hparser h (.inl (Option.some_ne_none _))
  · exact reply_tally hparser h (.inl (Option.some_ne_none _))
  · exact tunnelC2s_tally habort hparser ch len d h
  · exact reply_tally hparser h (.inr ⟨ch, len, d, rfl⟩)
  · exact tunnelPoll_tally habort hparser ch m h
  · rw [show exec .nop s = .next { s with pp := s.pp + 1 } from
      congrArg Host.Outcome.next (inParser_dispatch hparser _ _)] at h
    cases h
    exact .quiet rfl habort rfl

/-- One pass of the parse. -/
theorem dispatchFetch_tally {t : State} (h : (dispatchFetch s).inner = .next t) : Tally s t := by
  cases hbytes : s.payload.drop s.pp with
  | nil =>
    simp only [dispatchFetch, hbytes, Fetched.inner] at h
    cases h
    exact .quiet rfl habort rfl
  | cons code rest =>
    cases hdec : decodeSub s.cfg (code :: rest) with
    | ok r =>
      have hsub := decodeSub_language hdec
      rw [dispatchFetch_of_decodeSub (hbytes ▸ hdec)] at h
      exact exec_tally habort hparser hsub ((exec_eq_inner (.inr hsub) s).trans h)
    | error e =>
      rcases dispatchFetch_of_error hbytes hdec with hfetch | hfetch
      · rw [hfetch] at h
        cases h
        exact .unknown s
      · rw [hfetch] at h
        cases h
        exact shortSub_tally habort code rest

end

/-- The parse from where it starts to where it ends: a pass that counts something is its last. -/
theorem dispatchLoop_tally (n : Nat) {s t : State} (hparser : s.parser = .dispatch) (habort : s.abort = false)
    (h : dispatchLoop n s = .next t) : Tally s t := by
  induction n generalizing s with
  | zero =>
    cases h
    exact .quiet rfl habort rfl
  | succ n ih =>
    cases hdone : s.dispatchDone with
    | true =>
      rw [dispatchLoop_done _ hdone] at h
      cases h
      exact .quiet rfl habort rfl
    | false =>
      obtain ⟨hlt, -⟩ := dispatchDone_eq_false_iff.mp hdone
      obtain ⟨u, hpass, hstep, -⟩ := dispatchPass hparser hlt
      have htally := dispatchFetch_tally habort hparser hpass
      rw [dispatchLoop, if_neg (by simp [hdone]), hpass, Out.andThen] at h
      cases hflags : u.abort || u.tunnelSeen with
      | true =>
        rw [dispatchLoop_done n (dispatchDone_of_flags hflags)] at h
        cases h
        exact htally
      | false =>
        obtain ⟨habort', htunnel⟩ := Bool.or_eq_false_iff.mp hflags
        exact htally.trans hstep.cfg habort' htunnel (ih (hstep.parser.trans hparser) habort' h)

/-! ### The obligation -/

/-- The parse of a whole payload ends at its end, at an abort or after a tunnel subframe (45_dispatch R287, R294). -/
theorem dispatchDone_iff {s : State} :
    s.dispatchDone = true ↔ s.payload.length ≤ s.pp ∨ s.abort = true ∨ s.tunnelSeen = true := by
  simp [State.dispatchDone, or_assoc]

/-- Settles O48: the parse ends as a dispatch step, `dispatchLoop_tally` says what it counted, and what follows it is
`exec_srvDispatch_eq`. -/
theorem dispatchCompletes : Obligations.DispatchCompletes := by
  intro s h hsrv haddr
  obtain ⟨-, -, -, hwhole⟩ := h.received hsrv
  have hlen : s.payload.length = s.rxfLen.toNat := by
    rw [State.payload, ← hwhole, List.take_length, hwhole]
  obtain ⟨u, hloop, hstep, hdone, hle⟩ := dispatchLoop_ends s.payload.length (s := s.parsing) rfl (Nat.zero_le _)
    (Nat.le_add_left ..)
  obtain ⟨hneed, o, e, m, ho, he, haborted, hm, hstats⟩ := dispatchLoop_tally _ rfl rfl hloop
  have hpayload : u.payload.length = s.rxfLen.toNat := by
    rw [hstep.payload]
    exact hlen
  have hpp : u.pp ≤ s.rxfLen.toNat := hle.trans_eq hlen
  rw [dispatchDone_iff, hpayload] at hdone
  refine ⟨u, hstep.frame, hpp, hdone.imp_left hpp.antisymm, hstep.reply (Nat.zero_le _), hneed,
    ⟨o, e, m, ho.imp_right And.left, he, haborted, hm, hstats⟩, exec_srvDispatch_eq h hsrv hstep haddr hloop⟩

end Sys2Proof.Machine
end

section
/-! While the dispatch unit runs, it owns the framer: no step completes anything to the host (45_dispatch R284). -/

namespace Sys2Proof.Machine

/-- A delivery to the dispatch unit outputs nothing (45_dispatch R285). -/
theorem deliver_completion_server {src : BitVec 7} {rr : Bool} {dst : Byte} {len : Word} {payload : List Byte}
    {total : Nat} {s : State} (howner : s.rxOwner = .server) :
    (deliver src rr dst len payload total s).completion = s.completion := by
  rw [deliver_server howner]

/-- The dispatch unit's scan delivers to the dispatch unit (45_dispatch R285). -/
theorem scan_completion_server {s t : State} (h : scan s = .next t) (hrx : s.rxState = .awaitFrame)
    (howner : s.rxOwner = .server) : t.completion = s.completion := by
  obtain ⟨k, b, -, -, -, ⟨-, hwait⟩ | ⟨src, rr, dst, len, payload, crc, rest, -, -, hdeliver⟩⟩ := scan_cases hrx
  · cases hwait.symm.trans h
    rfl
  · rw [hdeliver] at h
    split at h
    · cases h
    · cases h
      exact deliver_completion_server howner

/-- While the dispatch unit runs, a pending read is its own (45_dispatch R284). -/
theorem State.Inv.read_server {s : State} (h : s.Inv) (hen : s.srvEn = true) (hrx : s.rxState = .readingMore) :
    s.rxOwner = .server := by
  obtain ⟨-, -, hread, -⟩ := h.srvOn hen
  obtain ⟨howner, -⟩ := hread hrx
  exact howner

section
variable {s t u : State} {p : Port}

/-- A read armed for the dispatch unit outputs nothing, refused or not. -/
theorem arm_server_silent {cap : Nat} (h : arm (s.accept p) cap .server u = .next t) (hout : u.completion = none) :
    t.completion = none := by
  by_cases hrx : u.rxState = .idle
  · rw [arm, if_neg (not_not_intro hrx)] at h
    exact (scan_completion_server h rfl rfl).trans hout
  · cases (arm_pending hrx).symm.trans h
    rfl

/-- The end of the dispatch unit's transmission is no completion of the host's (45_dispatch R293). -/
theorem completeTx_server_silent {st : Status} {sent : Nat} (h : completeTx (s.accept p) .server st sent u = .next t)
    (hout : u.completion = none) : t.completion = none := by
  obtain ⟨v, hv, harm⟩ := completeTx_server (s.accept p) st sent u
  have hvout : v.completion = u.completion := by rcases hv with rfl | rfl <;> rfl
  exact arm_server_silent (harm.symm.trans h) (hvout.trans hout)

/-- `RX_BYTE` to the dispatch unit's read (43_frame_sync R191). -/
theorem execRxByte_silent {d : Byte} (howner : s.rxState = .readingMore → s.rxOwner = .server)
    (h : execRxByte d s = .next t) : t.completion = none := by
  by_cases hrx : s.rxState = .readingMore
  · by_cases hroom : s.rxBuf.length < s.cfg.rxBufSize
    · rw [execRxByte_scan d hrx hroom] at h
      exact scan_completion_server h rfl (howner hrx)
    · cases (execRxByte_overflow d hrx (not_lt.mp hroom)).symm.trans h
  · cases (execRxByte_wait d hrx).symm.trans h
    rfl

/-- `RX_TERR` ends the dispatch unit's read, which is armed again (45_dispatch R285). -/
theorem execRxTerr_silent {e : Word} (howner : s.rxState = .readingMore → s.rxOwner = .server)
    (h : execRxTerr e s = .next t) : t.completion = none := by
  by_cases hrx : s.rxState = .readingMore
  · exact arm_server_silent ((execRxTerr_server e hrx (howner hrx)).symm.trans h) rfl
  · cases (execRxTerr_wait e hrx).symm.trans h
    rfl

/-- `TX_TAKE` of the dispatch unit's transmission (42_frame_codec R167, 45_dispatch R293). -/
theorem execTxTake_silent (howner : s.txState = .busy → s.txOwner = .server) (h : execTxTake s = .next t) :
    t.completion = none := by
  by_cases hbusy : s.txState = .busy
  · cases hd : s.txBuf[s.txPos]? with
    | none => cases (execTxTake_beyond hbusy (List.getElem?_eq_none_iff.mp hd)).symm.trans h
    | some d =>
      obtain ⟨hpos, -⟩ := List.getElem?_eq_some_iff.mp hd
      by_cases hlast : s.txPos + 1 = s.txBuf.length
      · have htake := (exec_txTake_last hbusy hd hlast).symm.trans h
        rw [howner hbusy] at htake
        exact completeTx_server_silent htake rfl
      · cases (exec_txTake_more hbusy hd (by omega)).symm.trans h
        rfl
  · cases (execTxTake_wait hbusy).symm.trans h
    rfl

/-- `TX_TERR` ends the dispatch unit's transmission (42_frame_codec R168, 45_dispatch R293). -/
theorem execTxTerr_silent {e : Word} (howner : s.txState = .busy → s.txOwner = .server)
    (h : execTxTerr e s = .next t) : t.completion = none := by
  by_cases hbusy : s.txState = .busy
  · have hterr := (exec_txTerr_busy e hbusy).symm.trans h
    rw [howner hbusy] at hterr
    exact completeTx_server_silent hterr rfl
  · cases (execTxTerr_wait e hbusy).symm.trans h
    rfl

/-- After a parse a reply starts, or a read of the dispatch unit's; neither completes anything (45_dispatch R287,
R293). -/
theorem dispatchConclude_silent (hinv : s.Inv) (hsrv : s.srvState = .frameReceived) (hstep : DispatchStep s.parsing u)
    (h : dispatchConclude (s.accept p) u = .next t) : t.completion = none := by
  have hout : u.completion = none := (congrArg State.completion hstep.frame :)
  have heq := dispatchConclude_eq hinv hsrv hstep (s.accept p)
  cases hreply : u.need && u.sendOk with
  | false =>
    rw [dispatchConclude_finish hreply] at h
    exact arm_server_silent h hout
  | true =>
    rw [Bool.and_eq_true_iff, hstep.sendOk] at hreply
    obtain ⟨hneed, hsend⟩ := hreply
    have hloud : ¬(s.rxfDst = 0x7F#8 ∧ s.rxfRr = false) := fun hquiet =>
      Bool.false_ne_true ((sendOk_eq_false_iff.mpr hquiet).symm.trans hsend)
    rw [if_pos ⟨hneed, hloud⟩] at heq
    cases heq.symm.trans h
    exact hout

/-- `SRV_DISPATCH` (45_dispatch R286, R287). -/
theorem execSrvDispatch_silent (hinv : s.Inv) (h : execSrvDispatch s = .next t) : t.completion = none := by
  by_cases hsrv : s.srvState = .frameReceived
  · cases haddr : s.isAddressed with
    | false => exact arm_server_silent ((execSrvDispatch_skip hsrv haddr).symm.trans h) rfl
    | true =>
      obtain ⟨-, -, -, hwhole⟩ := hinv.received hsrv
      obtain ⟨u, hloop, hstep, -⟩ := parsing_ends s
      rw [execSrvDispatch_parse hsrv haddr hwhole.ge, hloop] at h
      exact dispatchConclude_silent hinv hsrv hstep h
  · cases (execSrvDispatch_wait hsrv).symm.trans h
    rfl

/-- While the dispatch unit runs, no host command brings a completion: those on the framer are refused (45_dispatch
R284). -/
theorem command_silent (hen : s.srvEn = true) {i : Instr} (hi : i.language = .command) (h : exec i s = .next t) :
    t.completion = none := by
  cases i with
  | txFrames frames => cases (execTxFrames_enabled frames hen).symm.trans h; rfl
  | rxArm cap => cases (execRxArm_enabled cap hen).symm.trans h; rfl
  | rxCancel => cases (execRxCancel_enabled hen).symm.trans h; rfl
  | srvStart => cases (execSrvStart_enabled hen).symm.trans h; rfl
  | csrRead i => exact (execCsrRead_quiet h).out
  | csrWrite i v => exact (execCsrWrite_quiet h).out
  | rqWrite reg ty values => exact (execRqWrite_quiet h).out
  | rqRead reg ty n => exact (execRqRead_quiet h).out
  | rpParse payload => exact (execRpParse_quiet h).out
  | crcInit | crcByte | crcRead | crcCheck | venc | vdecClr | vdecByte | rqClear | rqSetRr | rqGet => cases h; rfl
  | _ => cases hi

/-- The host's timer has no read to end while the dispatch unit runs (43_frame_sync R196). -/
theorem execRxTimeout_enabled (howner : s.rxState = .readingMore → s.rxOwner = .server) :
    execRxTimeout s = .next s.wait := by
  refine execRxTimeout_wait (or_iff_not_imp_left.mpr fun hrx => ?_)
  rw [howner (not_not.mp hrx)]
  exact Owner.noConfusion

/-- While the dispatch unit runs, no event brings a completion: the framer's operations are the unit's own. -/
theorem event_silent (hinv : s.Inv) (hen : s.srvEn = true) {i : Instr} (hi : i.language = .event)
    (h : exec i s = .next t) : t.completion = none := by
  have hrx := hinv.read_server hen
  obtain ⟨-, -, -, htx, -⟩ := hinv.srvOn hen
  cases i with
  | rxByte d => exact execRxByte_silent hrx h
  | rxTerr e => exact execRxTerr_silent hrx h
  | txTake => exact execTxTake_silent htx h
  | txTerr e => exact execTxTerr_silent htx h
  | rxTimeout => cases (execRxTimeout_enabled hrx).symm.trans h; rfl
  | tRead ch n => exact (execTRead_quiet h).out
  | tWrite ch data => exact (execTWrite_quiet h).out
  | srvDispatch => exact execSrvDispatch_silent hinv h
  | _ => cases hi

end

/-- Settles O25: by the kind of step. -/
theorem serverOwnsPort : Obligations.ServerOwnsPort := by
  refine ⟨fun s hen => ⟨fun cap => execRxArm_enabled cap hen, execRxCancel_enabled hen,
    fun frames => execTxFrames_enabled frames hen⟩, fun s h hen =>
    ⟨execRxTimeout_enabled (h.read_server hen), fun t hstep => ?_⟩⟩
  cases step_cases h.settled hstep with
  | wait next | reset turn next | badCommand turn next => rw [next]; rfl
  | command i turn lang next => exact command_silent hen lang next
  | event p i turn notHost port next => exact event_silent h hen (event_of_portOf notHost port) next

end Sys2Proof.Machine
end

section
/-! What each instruction does to `FAULT` (60_exceptions R362 to R366): a check that fails raises its fault and changes
nothing else; an instruction that passes its checks keeps `FAULT`; and an arm of the dispatch unit's own that finds a read
pending, which the invariant excludes, raises `F_DOUBLE_READ`. Obligations O23 and O24 are read off these cases. -/

namespace Sys2Proof.Machine

/-! ### The effect of a fault -/

/-- The state after a command or event of port `p` of which a check fails (60_exceptions R365): its turn is taken and the
bit is set; an oversize batch also completes `FAILED` (42_frame_codec R165). -/
def State.faulted (s : State) (p : Port) (b : FaultBit) : State :=
  if b = .txOversize then ((s.accept p).raise b).emit .tx .failed (.sent 0) else (s.accept p).raise b

/-- The dispatch unit's transmission or a frame it holds is pending: their ends arm its read (45_dispatch R287, R293). -/
abbrev State.rearmDue (s : State) : Prop :=
  (s.txState = .busy ∧ s.txOwner = .server) ∨ s.srvState = .frameReceived

/-- While one is pending, no read is (45_dispatch R280 to R293). -/
theorem State.Inv.rx_idle_of_rearmDue {s : State} (h : s.Inv) (due : s.rearmDue) : s.rxState = .idle := by
  rcases due with ⟨htx, howner⟩ | hsrv
  · obtain ⟨hread, hbusy, -⟩ := h.srvOn (h.tx_server htx howner)
    exact h.rx_idle fun hrx => by cases (hread.mpr hrx).symm.trans (hbusy.mpr htx)
  · obtain ⟨-, hrx, -⟩ := h.received hsrv
    exact hrx

/-- EVERYTHING A COMMAND OR EVENT CAN DO TO `FAULT`. -/
inductive FaultCases (i : Instr) (p : Port) (s : State) : Prop where
  | fails (b : FaultBit) (check : raisedBy i s = some b) (next : exec i s = .next (s.faulted p b))
  | passes (check : raisedBy i s = none) (keeps : ∀ t, exec i s = .next t → t.fault = s.fault)
  | rearms (check : raisedBy i s = none) (pending : s.rxState ≠ .idle) (due : s.rearmDue)
      (next : exec i s = .next (s.faulted p .doubleRead))

/-! ### The operations that keep `FAULT` -/

@[simp] theorem deliver_fault (src : BitVec 7) (rr : Bool) (dst : Byte) (len : Word) (payload : List Byte) (total : Nat)
    (s : State) : (deliver src rr dst len payload total s).fault = s.fault := by
  cases howner : s.rxOwner with
  | host => rw [deliver_host howner]
  | server => rw [deliver_server howner]

theorem scan_fault {s t : State} (h : scan s = .next t) (hrx : s.rxState = .awaitFrame) : t.fault = s.fault := by
  obtain ⟨k, b, -, -, -, ⟨-, hwait⟩ | ⟨src, rr, dst, len, payload, crc, rest, -, -, hdeliver⟩⟩ := scan_cases hrx
  · cases hwait.symm.trans h
    rfl
  · rw [hdeliver] at h
    split at h
    · cases h
    · cases h
      exact deliver_fault ..

/-- With no read pending an arm is a scan (43_frame_sync R190). -/
theorem arm_fault {s0 s t : State} {cap : Nat} {owner : Owner} (h : arm s0 cap owner s = .next t)
    (hrx : s.rxState = .idle) : t.fault = s.fault := by
  rw [arm, if_neg (not_not_intro hrx)] at h
  exact (scan_fault h rfl :)

theorem DispatchStep.fault {s t : State} (h : DispatchStep s t) : t.fault = s.fault := by
  rw [h.frame]

theorem ReplyStep.fault {s t : State} (h : ReplyStep s t) : t.fault = s.fault := by
  rw [h.frame]

/-! ### Frames and subframes -/

theorem execFrame_fault {src : BitVec 7} {rr : Bool} {dst : Byte} {len : VarU} {payload : List Byte} {crc : Half}
    {s t : State} (h : execFrame src rr dst len payload crc s = .next t) : t.fault = s.fault := by
  unfold execFrame at h
  dsimp only at h
  split at h
  · cases h
    rfl
  · split at h
    · cases h
      rfl
    · split at h
      · cases h
      · cases h
        exact deliver_fault ..

/-- A subframe raises no fault in any parser (44_subframe_codec R260, 45_dispatch R288). -/
theorem subframe_fault {i : Instr} {s t : State} (hi : i.language = .subframe) (h : exec i s = .next t) :
    t.fault = s.fault := by
  cases hparser : s.parser with
  | dispatch =>
    obtain ⟨u, hu, hstep, -⟩ := inner_dispatch hi hparser
    cases ((exec_eq_inner (.inr hi) s).trans hu).symm.trans h
    exact hstep.fault
  | reply =>
    obtain ⟨u, hu, hstep, -⟩ := inner_replyParser hi hparser
    cases ((exec_eq_inner (.inr hi) s).trans hu).symm.trans h
    exact hstep.fault
  | none =>
    cases (exec_in_noParser hi (.inl hparser)).symm.trans h
    rfl
  | replyEnded =>
    cases (exec_in_noParser hi (.inr hparser)).symm.trans h
    rfl

/-- What has no port has no check and keeps `FAULT`: no command and no event (30_encoding R85, R86). -/
theorem portless_fault {i : Instr} (hport : portOf i = none) (s : State) :
    raisedBy i s = none ∧ ∀ t, exec i s = .next t → t.fault = s.fault := by
  cases i with
  | frame src rr dst len payload crc => exact ⟨rfl, fun _ h => execFrame_fault h⟩
  | _ => first | (cases hport; done) | exact ⟨rfl, fun _ h => subframe_fault rfl h⟩

/-! ### The framer's commands -/

theorem txFrames_faultCases (frames : List Frame) (s : State) : FaultCases (.txFrames frames) .host s := by
  by_cases hen : s.srvEn = true
  · exact .fails .serverOwns (if_pos hen) (execTxFrames_enabled frames hen)
  have hoff := Bool.eq_false_iff.mpr hen
  cases htx : s.txState with
  | busy =>
    exact .fails .doubleWrite ((if_neg hen).trans (if_pos htx)) (execTxFrames_pending frames hoff htx)
  | idle =>
  have hstart : exec (.txFrames frames) s = _ := execTxFrames_start frames hoff htx
  have hidle : s.txState ≠ .busy := by simp [htx]
  cases hfits : txOversize s.cfg frames with
  | true =>
    exact .fails .txOversize ((if_neg hen).trans ((if_neg hidle).trans (if_pos (txOversize_iff.mp hfits))))
      (hstart.trans (startTx_oversize_host _ hfits))
  | false =>
    have hsmall := mt txOversize_iff.mpr (Bool.eq_false_iff.mp hfits)
    refine .passes ((if_neg hen).trans ((if_neg hidle).trans (if_neg hsmall))) fun t h => ?_
    by_cases hbytes : frames.flatMap (encodeFrame s.cfg) = []
    · cases (hstart.trans (startTx_empty _ .host hfits hbytes)).symm.trans h
      rfl
    · cases (hstart.trans (startTx_busy _ .host hfits hbytes)).symm.trans h
      rfl

theorem rxArm_faultCases (cap : Word) (s : State) : FaultCases (.rxArm cap) .host s := by
  by_cases hen : s.srvEn = true
  · exact .fails .serverOwns (if_pos hen) (execRxArm_enabled cap hen)
  have hoff := Bool.eq_false_iff.mpr hen
  by_cases hcap : s.cfg.maxPayload < cap.toNat
  · exact .fails .badCmd ((if_neg hen).trans (if_pos hcap)) (execRxArm_oversize hoff hcap)
  have harm : exec (.rxArm cap) s = _ := execRxArm_arm hoff (not_lt.mp hcap)
  by_cases hrx : s.rxState = .idle
  · exact .passes ((if_neg hen).trans ((if_neg hcap).trans (if_neg (not_not_intro hrx)))) fun t h =>
      (arm_fault (harm.symm.trans h) hrx :)
  · exact .fails .doubleRead ((if_neg hen).trans ((if_neg hcap).trans (if_pos hrx))) (harm.trans (arm_pending hrx))

theorem rxCancel_faultCases (s : State) : FaultCases .rxCancel .host s := by
  by_cases hen : s.srvEn = true
  · exact .fails .serverOwns (if_pos hen) (execRxCancel_enabled hen)
  have hoff := Bool.eq_false_iff.mpr hen
  refine .passes (if_neg hen) fun t h => ?_
  by_cases hrx : s.rxState = .readingMore
  · cases howner : s.rxOwner with
    | host =>
      cases (execRxCancel_host hoff hrx howner).symm.trans h
      rfl
    | server => cases (execRxCancel_server hrx hoff howner).symm.trans h
  · cases (execRxCancel_nothing hoff hrx).symm.trans h
    rfl

theorem srvStart_faultCases (s : State) : FaultCases .srvStart .host s := by
  obtain ⟨-, hpendingRead, hpendingWrite, -⟩ := serverStart s
  by_cases hen : s.srvEn = true
  · exact .fails .srvRestart (if_pos hen) (execSrvStart_enabled hen)
  have hoff := Bool.eq_false_iff.mpr hen
  by_cases hrx : s.rxState = .idle
  · have hnone := not_not_intro hrx
    cases htx : s.txState with
    | busy =>
      exact .fails .doubleWrite ((if_neg hen).trans ((if_neg hnone).trans (if_pos htx))) (hpendingWrite hoff hrx htx)
    | idle =>
      exact .passes ((if_neg hen).trans ((if_neg hnone).trans (if_neg (by simp [htx])))) fun t h =>
        (arm_fault ((execSrvStart_arm hoff hrx htx).symm.trans h) hrx :)
  · exact .fails .doubleRead ((if_neg hen).trans (if_pos hrx)) (hpendingRead hoff hrx)

/-! ### The commands of the host's own units -/

/-- Every index but the unmapped ones has a CSR (10_state R35). -/
theorem csr_mapped {s : State} {i : Byte} (h : ¬((0x04 ≤ i.toNat ∧ i.toNat ≤ 0x0F) ∨ 0x17 ≤ i.toNat)) :
    ∃ v, s.csr i = some v := by
  unfold State.csr
  split
  case h_12 =>
    simp only [imp_false] at *
    omega
  all_goals exact ⟨_, rfl⟩

theorem csrRead_faultCases (i : Byte) (s : State) : FaultCases (.csrRead i) .host s := by
  by_cases hi : (0x04 ≤ i.toNat ∧ i.toNat ≤ 0x0F) ∨ 0x17 ≤ i.toNat
  · have hne : i ≠ 0x01#8 := by
      rintro rfl
      simp at hi
    exact .fails .badCsr (if_pos hi) (execCsrRead_unmapped hne (csr_unmapped hi))
  · obtain ⟨v, hv⟩ := csr_mapped (s := s) hi
    refine .passes (if_neg hi) fun t h => ?_
    change execCsrRead i s = _ at h
    unfold execCsrRead at h
    split at h
    · cases h
    · rw [hv] at h
      cases h
      rfl

theorem csrWrite_faultCases (i : Byte) (v : Word) (s : State) : FaultCases (.csrWrite i v) .host s := by
  by_cases hi : i = 0x00#8
  · subst hi
    exact .passes rfl fun t h => by cases h; rfl
  · exact .fails .badCsr (if_pos hi) (execCsrWrite_other v hi)

/-- What fits is appended to the request and raises nothing (44_subframe_codec R250). -/
theorem rqAppend_fault {s : State} {sub : List Byte} {done : State → State} (hdone : ∀ u, (done u).fault = u.fault)
    (hfits : ¬s.cfg.rqCap < s.rqBuf.length + sub.length) : (rqAppend sub done s).fault = s.fault := by
  rw [rqAppend_fits (not_lt.mp hfits), hdone]

theorem rqWrite_faultCases (reg : Word) (ty : VType) (values : List (List Byte)) (s : State) :
    FaultCases (.rqWrite reg ty values) .host s := by
  by_cases hwidth : ∃ v ∈ values, v.length ≠ ty.width
  · exact .fails .badCmd (if_pos hwidth) (exec_rqWrite_badCmd hwidth)
  have happend := exec_rqWrite_append (s := s) (reg := reg) (by simpa using hwidth)
  by_cases hover : s.cfg.rqCap < s.rqBuf.length + (subRw 0 ty reg (values.map (Value.read ty))).length
  · exact .fails .rqOverflow ((if_neg hwidth).trans (if_pos hover))
      (happend.trans (congrArg _ (rqAppend_overflows (s := s.accept .host) hover)))
  · refine .passes ((if_neg hwidth).trans (if_neg hover)) fun t h => ?_
    cases happend.symm.trans h
    exact rqAppend_fault (s := s.accept .host) (fun _ => rfl) hover

theorem rqRead_faultCases (reg : Word) (ty : VType) (n : Word) (s : State) :
    FaultCases (.rqRead reg ty n) .host s := by
  have happend := exec_rqRead_append reg ty n s
  by_cases hover : s.cfg.rqCap < s.rqBuf.length + (subRead ty reg n.toNat).length
  · exact .fails .rqOverflow (if_pos hover)
      (happend.trans (congrArg _ (rqAppend_overflows (s := s.accept .host) hover)))
  · refine .passes (if_neg hover) fun t h => ?_
    cases happend.symm.trans h
    exact rqAppend_fault (s := s.accept .host) (fun _ => rfl) hover

theorem rpParse_faultCases (payload : List Byte) (s : State) : FaultCases (.rpParse payload) .host s := by
  by_cases hlen : s.cfg.maxPayload < payload.length
  · exact .fails .badCmd (if_pos hlen) (if_pos hlen)
  · refine .passes (if_neg hlen) fun t h => ?_
    obtain ⟨u, hloop, hstep, -⟩ := replyLoop_ends payload.length
      (s := { s.accept .host with rpMap := [], rpUsed := 0#32, rpPayload := payload, rpPos := 0, parser := .reply })
      rfl (Nat.zero_le _) rfl (by simp)
    change execRpParse payload s = _ at h
    rw [execRpParse, if_neg hlen, hloop] at h
    cases h
    exact hstep.fault

/-- Every host command (30_encoding R85). -/
theorem command_faultCases {i : Instr} (hi : i.language = .command) (s : State) : FaultCases i .host s := by
  cases i with
  | crcInit | crcByte | crcRead | crcCheck | venc | vdecClr | vdecByte | rqClear | rqSetRr | rqGet =>
    exact .passes rfl fun t h => by cases h; rfl
  | txFrames frames => exact txFrames_faultCases frames s
  | rxArm cap => exact rxArm_faultCases cap s
  | rxCancel => exact rxCancel_faultCases s
  | srvStart => exact srvStart_faultCases s
  | csrRead i => exact csrRead_faultCases i s
  | csrWrite i v => exact csrWrite_faultCases i v s
  | rqWrite reg ty values => exact rqWrite_faultCases reg ty values s
  | rqRead reg ty n => exact rqRead_faultCases reg ty n s
  | rpParse payload => exact rpParse_faultCases payload s
  | _ => cases hi

/-! ### The events -/

section
variable {i : Instr} {s u : State} {p : Port}

/-- An event that only waits for its condition. -/
theorem FaultCases.waits (check : raisedBy i s = none) (h : exec i s = .next s.wait) : FaultCases i p s :=
  .passes check fun t ht => by cases h.symm.trans ht; rfl

/-- An event that stops in a modelling error has no next state. -/
theorem FaultCases.stops {f : Fault} (check : raisedBy i s = none) (h : exec i s = .fault f) : FaultCases i p s :=
  .passes check fun t ht => by cases h.symm.trans ht

/-- The dispatch unit arms its read again: that raises a fault only over a pending read (43_frame_sync R194). -/
theorem FaultCases.arms {cap : Nat} {owner : Owner} (check : raisedBy i s = none) (due : s.rearmDue)
    (h : exec i s = arm (s.accept p) cap owner u) (hrx : u.rxState = s.rxState) (hfault : u.fault = s.fault) :
    FaultCases i p s := by
  by_cases hidle : s.rxState = .idle
  · exact .passes check fun t ht => (arm_fault (h.symm.trans ht) (hrx.trans hidle)).trans hfault
  · exact .rearms check hidle due (h.trans (arm_pending fun hu => hidle (hrx.symm.trans hu)))

/-- The end of a pending transmission: a completion of the host's, or the dispatch unit's arm (42_frame_codec R167,
R168). -/
theorem FaultCases.endsTx {st : Status} {sent : Nat} (check : raisedBy i s = none) (hbusy : s.txState = .busy)
    (h : exec i s = completeTx (s.accept p) s.txOwner st sent u) (hrx : u.rxState = s.rxState)
    (hfault : u.fault = s.fault) : FaultCases i p s := by
  cases howner : s.txOwner with
  | host =>
    rw [howner] at h
    refine .passes check fun t ht => ?_
    cases h.symm.trans ht
    exact hfault
  | server =>
    rw [howner] at h
    obtain ⟨v, hv, harm⟩ := completeTx_server (s.accept p) st sent u
    have hvrx : v.rxState = u.rxState := by rcases hv with rfl | rfl <;> rfl
    have hvfault : v.fault = u.fault := by rcases hv with rfl | rfl <;> rfl
    exact .arms check (.inl ⟨hbusy, howner⟩) (h.trans harm) (hvrx.trans hrx) (hvfault.trans hfault)

/-- The end of a frame's dispatch: the arm, or the reply on its way (45_dispatch R287, R293). -/
theorem FaultCases.concludes (check : raisedBy i s = none) (hsrv : s.srvState = .frameReceived)
    (h : exec i s = dispatchConclude (s.accept p) u) (hrx : u.rxState = s.rxState) (hfault : u.fault = s.fault) :
    FaultCases i p s := by
  cases hreply : u.need && u.sendOk with
  | false => exact .arms check (.inr hsrv) (h.trans (dispatchConclude_finish hreply)) hrx hfault
  | true =>
    obtain ⟨hneed, hsend⟩ := Bool.and_eq_true_iff.mp hreply
    by_cases htx : u.txState = .busy
    · exact .stops check (h.trans (dispatchConclude_noReply hneed hsend (.inl htx)))
    have hsends : exec i s = _ := h.trans ((dispatchConclude_reply hreply).trans (if_neg htx))
    cases hfits : txOversize u.cfg [u.replyFrame] with
    | true => exact .stops check (hsends.trans (startTx_oversize_server _ hfits))
    | false =>
      refine .passes check fun t ht => ?_
      cases (hsends.trans (startTx_busy _ .server hfits (batch_ne_nil _ (List.cons_ne_nil _ _)))).symm.trans ht
      exact hfault

end

theorem rxByte_faultCases (d : Byte) (s : State) : FaultCases (.rxByte d) .transportRx s := by
  by_cases hrx : s.rxState = .readingMore
  · by_cases hroom : s.rxBuf.length < s.cfg.rxBufSize
    · exact .passes rfl fun t h => (scan_fault ((execRxByte_scan d hrx hroom).symm.trans h) rfl :)
    · exact .stops rfl (execRxByte_overflow d hrx (not_lt.mp hroom))
  · exact .waits rfl (execRxByte_wait d hrx)

theorem rxTerr_faultCases (e : Word) (s : State) : FaultCases (.rxTerr e) .transportRx s := by
  by_cases hrx : s.rxState = .readingMore
  · refine .passes rfl fun t h => ?_
    cases howner : s.rxOwner with
    | host =>
      cases (execRxTerr_host e hrx howner).symm.trans h
      rfl
    | server => exact (arm_fault ((execRxTerr_server e hrx howner).symm.trans h) rfl :)
  · exact .waits rfl (execRxTerr_wait e hrx)

theorem rxTimeout_faultCases (s : State) : FaultCases .rxTimeout .timer s := by
  by_cases hwait : s.rxState ≠ .readingMore ∨ s.rxOwner ≠ .host
  · exact .waits rfl (execRxTimeout_wait hwait)
  · simp only [ne_eq, not_or, not_not] at hwait
    obtain ⟨hrx, howner⟩ := hwait
    refine .passes rfl fun t h => ?_
    cases (execRxTimeout_host hrx howner).symm.trans h
    rfl

theorem txTake_faultCases (s : State) : FaultCases .txTake .transportTx s := by
  by_cases hbusy : s.txState = .busy
  · cases hd : s.txBuf[s.txPos]? with
    | none => exact .stops rfl (execTxTake_beyond hbusy (List.getElem?_eq_none_iff.mp hd))
    | some d =>
      obtain ⟨hpos, -⟩ := List.getElem?_eq_some_iff.mp hd
      by_cases hlast : s.txPos + 1 = s.txBuf.length
      · exact .endsTx rfl hbusy (exec_txTake_last hbusy hd hlast) rfl rfl
      · refine .passes rfl fun t h => ?_
        cases (exec_txTake_more hbusy hd (by omega)).symm.trans h
        rfl
  · exact .waits rfl (execTxTake_wait hbusy)

theorem txTerr_faultCases (e : Word) (s : State) : FaultCases (.txTerr e) .transportTx s := by
  by_cases hbusy : s.txState = .busy
  · exact .endsTx rfl hbusy (exec_txTerr_busy e hbusy) rfl rfl
  · exact .waits rfl (execTxTerr_wait e hbusy)

theorem tRead_faultCases (ch : BitVec 7) (n : Word) (s : State) : FaultCases (.tRead ch n) (.tunnelRead ch) s := by
  by_cases hch : ch ∈ s.cfg.tunnelIds
  · refine .passes (if_neg (not_not_intro hch)) fun t h => ?_
    by_cases hempty : s.rxq ch.toNat = []
    · cases (execTRead_wait n hch hempty).symm.trans h
      rfl
    · obtain ⟨-, hread, -⟩ := tunnelPorts s ch n []
      cases (hread hch hempty).symm.trans h
      rfl
  · exact .fails .badTunnel (if_pos hch) (if_pos (not_registered_of_not_mem hch))

theorem tWrite_faultCases (ch : BitVec 7) (d : List Byte) (s : State) :
    FaultCases (.tWrite ch d) (.tunnelWrite ch) s := by
  by_cases hch : ch ∈ s.cfg.tunnelIds
  · refine .passes (if_neg (not_not_intro hch)) fun t h => ?_
    by_cases hfull : s.cfg.tunnelTxCap ≤ (s.txq ch.toNat).length
    · cases (execTWrite_wait d hch hfull).symm.trans h
      rfl
    · obtain ⟨-, -, hwrite⟩ := tunnelPorts s ch 0#32 d
      cases (hwrite hch _ (not_le.mp hfull) rfl).symm.trans h
      rfl
  · exact .fails .badTunnel (if_pos hch) (if_pos (not_registered_of_not_mem hch))

theorem srvDispatch_faultCases (s : State) : FaultCases .srvDispatch .dispatch s := by
  by_cases hsrv : s.srvState = .frameReceived
  · cases haddr : s.isAddressed with
    | false => exact .arms rfl (.inr hsrv) (execSrvDispatch_skip hsrv haddr) rfl rfl
    | true =>
      by_cases hlen : s.rxfPayload.length < s.rxfLen.toNat
      · exact .stops rfl (execSrvDispatch_missing hsrv haddr hlen)
      · obtain ⟨u, hloop, hstep, -⟩ := parsing_ends s
        obtain ⟨hrx, -⟩ := hstep.framer
        have hexec : exec .srvDispatch s = _ := execSrvDispatch_parse hsrv haddr (not_lt.mp hlen)
        rw [hloop] at hexec
        exact .concludes rfl hsrv hexec hrx hstep.fault
  · exact .waits rfl (execSrvDispatch_wait hsrv)

/-- Every command and every event, at its port (30_encoding R85, R86). -/
theorem exec_faultCases {i : Instr} {p : Port} (hport : portOf i = some p) (s : State) : FaultCases i p s := by
  rcases portOf_language hport with hi | hi
  · cases (portOf_command hi).symm.trans hport
    exact command_faultCases hi s
  · cases i with
    | rxByte d => cases hport; exact rxByte_faultCases d s
    | rxTerr e => cases hport; exact rxTerr_faultCases e s
    | txTake => cases hport; exact txTake_faultCases s
    | txTerr e => cases hport; exact txTerr_faultCases e s
    | rxTimeout => cases hport; exact rxTimeout_faultCases s
    | tRead ch n => cases hport; exact tRead_faultCases ch n s
    | tWrite ch d => cases hport; exact tWrite_faultCases ch d s
    | srvDispatch => cases hport; exact srvDispatch_faultCases s
    | _ => cases hi

/-! ### The obligations -/

/-- A check that fails raises its fault, in every state. -/
theorem exec_of_raisedBy {i : Instr} {s : State} {b : FaultBit} (h : raisedBy i s = some b) :
    ∃ p, portOf i = some p ∧ exec i s = .next (s.faulted p b) := by
  cases hport : portOf i with
  | none =>
    obtain ⟨hnone, -⟩ := portless_fault hport s
    cases hnone.symm.trans h
  | some p =>
    cases exec_faultCases hport s with
    | fails c check next =>
      cases check.symm.trans h
      exact ⟨p, rfl, next⟩
    | passes check keeps => cases check.symm.trans h
    | rearms check pending due next => cases check.symm.trans h

/-- From the invariant an instruction that passes its checks keeps `FAULT`. -/
theorem fault_of_passes {i : Instr} {s t : State} (hinv : s.Inv) (h : raisedBy i s = none) (ht : exec i s = .next t) :
    t.fault = s.fault := by
  cases hport : portOf i with
  | none => exact (portless_fault hport s).2 t ht
  | some p =>
    cases exec_faultCases hport s with
    | fails b check next => cases check.symm.trans h
    | passes check keeps => exact keeps t ht
    | rearms check pending due next => exact absurd (hinv.rx_idle_of_rearmDue due) pending

/-- Whatever changes `FAULT` has only the effect of a fault, in every state. -/
theorem faulted_of_fault_ne {i : Instr} {s t : State} (ht : exec i s = .next t) (hne : t.fault ≠ s.fault) :
    ∃ p b, portOf i = some p ∧ t = s.faulted p b := by
  cases hport : portOf i with
  | none => exact absurd ((portless_fault hport s).2 t ht) hne
  | some p =>
    cases exec_faultCases hport s with
    | fails b check next => exact ⟨p, b, rfl, Host.Outcome.next.inj (ht.symm.trans next)⟩
    | passes check keeps => exact absurd (keeps t ht) hne
    | rearms check pending due next => exact ⟨p, .doubleRead, rfl, Host.Outcome.next.inj (ht.symm.trans next)⟩

/-- Settles O23: by the cases of what a command or event can do to `FAULT`. -/
theorem faultsArePrecise : Obligations.FaultsArePrecise := fun _ _ =>
  ⟨fun _ => exec_of_raisedBy, fun _ => fault_of_passes, fun _ => faulted_of_fault_ne⟩

/-- Of the events only those of the tunnel ports have a check (60_exceptions R363, R366). -/
theorem tunnelPort_of_raisedBy {i : Instr} {s : State} {b : FaultBit} (hi : i.language = .event)
    (h : raisedBy i s = some b) : ∃ ch, portOf i = some (.tunnelRead ch) ∨ portOf i = some (.tunnelWrite ch) := by
  cases i with
  | tRead ch n => exact ⟨ch, .inl rfl⟩
  | tWrite ch d => exact ⟨ch, .inr rfl⟩
  | rxByte | rxTerr | txTake | txTerr | rxTimeout | srvDispatch => cases h
  | _ => cases hi

/-- Settles O24: by the kind of step; an event that changes `FAULT` failed a check, and only tunnel events have one. -/
theorem wireCannotFault : Obligations.WireCannotFault := by
  intro s t hinv hstep hreset hne
  cases step_cases hinv.settled hstep with
  | wait next => exact absurd (congrArg State.fault next) hne
  | reset turn next => exact absurd turn hreset
  | badCommand turn next => exact .inl turn
  | command i turn lang next => exact .inl turn
  | event p i turn notHost port next =>
    cases hcheck : raisedBy i s with
    | none => exact absurd (fault_of_passes hinv hcheck next) hne
    | some b =>
      obtain ⟨ch, hread | hwrite⟩ := tunnelPort_of_raisedBy (event_of_portOf notHost port) hcheck
      · cases port.symm.trans hread
        exact .inr ⟨ch, .inl turn⟩
      · cases port.symm.trans hwrite
        exact .inr ⟨ch, .inr turn⟩

end Sys2Proof.Machine
end

section
/-! The state after reset, and what only RESET clears (70_reset_and_hazards R390, R391): the table of reset values, the
invariant after reset, and over every other step `FAULT`, `SRV_EN` and the counters. -/

namespace Sys2Proof.Machine

/-! ### After reset (70_reset_and_hazards R390) -/

/-- Settles O14: the table entry by entry, and RESET at a step boundary by `step_of_reset`. -/
theorem resetValues : Obligations.ResetValues := by
  intro c
  have hcounters : ∀ k : Counter, (State.resetWith c).stats.get k = 0 := fun k => by cases k <;> rfl
  have hstatus : (State.resetWith c).statusWord = 0#32 := by
    simp [State.statusWord, State.resetWith, bitAt, fieldAt, SrvState.code, RxState.code, VdStatus.code]
  have hcrc : c.crcRefout = false → (State.resetWith c).crcValue = c.crcInit ^^^ c.crcXorout := fun hplain => by
    simp [State.crcValue, refout, State.resetWith, hplain]
  refine ⟨⟨rfl, rfl, rfl, rfl, rfl, rfl, rfl, rfl, rfl, rfl, rfl, rfl, rfl, rfl, rfl, rfl, rfl, rfl, rfl, rfl, rfl, rfl,
    rfl, rfl⟩, ⟨rfl, hcounters, hstatus, rfl, hcrc, rfl, rfl, rfl, rfl, rfl, rfl, rfl⟩, rfl, fun s r hs hsched => ?_⟩
  rw [step_of_reset hs hsched, State.resetBlock, hsched]
  rfl

/-- Settles O15: the state after reset is what RESET makes of itself, and RESET leads into the invariant. -/
theorem resetInv : Obligations.ResetInv :=
  have hreset : ∀ c : Config, c.wf → (State.resetWith c).Inv := fun c hwf => resetBlock_inv (s := State.resetWith c) hwf
  ⟨hreset, hreset .reference (by decide)⟩

/-! ### Counting (10_state R31) -/

theorem Stats.get_bump (w : Nat) (st : Stats) (c d : Counter) :
    (st.bump w d).get c = if d = c then (st.get c + 1) % 2 ^ w else st.get c := by
  cases d <;> cases c <;> rfl

/-- A counter that was counted a number of times has moved by that number, modulo its width. -/
theorem Stats.get_foldl_bump {w : Nat} {st : Stats} {c : Counter} (cs : List Counter) (h : st.get c < 2 ^ w) :
    (cs.foldl (Stats.bump w) st).get c = (st.get c + cs.count c) % 2 ^ w := by
  induction cs generalizing st with
  | nil => exact (Nat.mod_eq_of_lt h).symm
  | cons d cs ih =>
    have hget := Stats.get_bump w st c d
    by_cases hd : d = c
    · rw [if_pos hd] at hget
      rw [List.foldl_cons, ih (hget ▸ Nat.mod_lt _ (Nat.two_pow_pos w)), hget, Nat.mod_add_mod, hd,
        List.count_cons_self, Nat.add_assoc, Nat.add_comm 1]
    · rw [if_neg hd] at hget
      rw [List.foldl_cons, ih (hget ▸ h), hget, List.count_cons_of_ne hd]

theorem State.Inv.counter_lt {s : State} (h : s.Inv) (c : Counter) : s.stats.get c < 2 ^ s.cfg.statsWidth := by
  obtain ⟨-, -, -, -, -, -, -, ⟨hwrong, hover, hunknown, hmissing, hmalformed, hwrite, hmismatch⟩, -⟩ := h
  cases c with
  | wrongId => exact hwrong
  | receiveOverrun => exact hover
  | unknownSubframe => exact hunknown
  | missingSubframe => exact hmissing
  | malformedSubframe => exact hmalformed
  | writeError => exact hwrite
  | checksumMismatch => exact hmismatch

/-- From `s` to `t` the counters `cs` were counted, one after another, and `SRV_EN` was not cleared. -/
structure CountStep (s t : State) (cs : List Counter) : Prop where
  cfg : t.cfg = s.cfg
  srvEn : s.srvEn = true → t.srvEn = true
  stats : t.stats = cs.foldl (Stats.bump s.cfg.statsWidth) s.stats

theorem CountStep.trans {s t u : State} {cs ds : List Counter} (h : CountStep s t cs) (k : CountStep t u ds) :
    CountStep s u (cs ++ ds) :=
  ⟨k.cfg.trans h.cfg, k.srvEn ∘ h.srvEn, by rw [k.stats, h.cfg, h.stats, List.foldl_append]⟩

/-- Causes other than a mismatch, none of them twice. -/
abbrev EachOnce (cs : List Counter) : Prop := cs.Nodup ∧ .checksumMismatch ∉ cs

theorem eachOnce_nil : EachOnce [] := by decide

/-- EVERYTHING A STEP COUNTS: each other cause at most once, then the mismatches of one scan, at most one for each byte
that the buffer had or that the step put into it. -/
def StepCounts (s t : State) : Prop :=
  ∃ cs k, EachOnce cs ∧ k ≤ s.rxBuf.length + 1 ∧ CountStep s t (cs ++ List.replicate k .checksumMismatch)

section
variable {s t : State}

/-- Nothing is counted. -/
theorem StepCounts.of_nothing (h : CountStep s t []) : StepCounts s t := ⟨[], 0, eachOnce_nil, Nat.zero_le _, h⟩

theorem StepCounts.of_kept (hcfg : t.cfg = s.cfg) (hsrv : t.srvEn = s.srvEn) (hstats : t.stats = s.stats) :
    StepCounts s t :=
  .of_nothing ⟨hcfg, hsrv.trans, hstats⟩

theorem StepCounts.wait (s : State) : StepCounts s s.wait := .of_kept rfl rfl rfl

theorem StepCounts.raised (s : State) (p : Port) (f : FaultBit) : StepCounts s ((s.accept p).raise f) :=
  .of_kept rfl rfl rfl

theorem HostUnitStep.counts (h : HostUnitStep s t) : StepCounts s t :=
  .of_kept (congrArg State.cfg h.frame :) (congrArg State.srvEn h.frame :) (congrArg State.stats h.frame :)

theorem TunnelStep.counts (h : TunnelStep s t) : StepCounts s t :=
  .of_kept (congrArg State.cfg h.frame :) (congrArg State.srvEn h.frame :) (congrArg State.stats h.frame :)

/-- How far a counter can move in a step. -/
theorem StepCounts.moves (h : StepCounts s t) {c : Counter} (hc : s.stats.get c < 2 ^ s.cfg.statsWidth) :
    ∃ k, k ≤ (if c = .checksumMismatch then s.rxBuf.length + 1 else 1) ∧
      t.stats.get c = (s.stats.get c + k) % 2 ^ s.cfg.statsWidth := by
  obtain ⟨cs, k, ⟨honce, hnot⟩, hk, hcount⟩ := h
  refine ⟨_, ?_, (congrArg (Stats.get · c) hcount.stats).trans (Stats.get_foldl_bump _ hc)⟩
  rw [List.count_append, List.count_replicate]
  by_cases hmismatch : c = .checksumMismatch
  · subst hmismatch
    simpa [List.count_eq_zero_of_not_mem hnot] using hk
  · simpa [hmismatch, Ne.symm hmismatch] using List.nodup_iff_count_le_one.mp honce c

/-! ### The framer's operations -/

theorem afterMismatches_eq_foldl (s : State) (k : Nat) :
    s.afterMismatches k = (List.replicate k .checksumMismatch).foldl (Stats.bump s.cfg.statsWidth) s.stats := by
  induction k with
  | zero => rfl
  | succ k ih =>
    rw [afterMismatches_succ, ih, List.replicate_succ', List.foldl_append]
    rfl

theorem deliver_counts (src : BitVec 7) (rr : Bool) (dst : Byte) (len : Word) (payload : List Byte) (total : Nat)
    (s : State) : CountStep s (deliver src rr dst len payload total s) [] := by
  cases howner : s.rxOwner with
  | host =>
    rw [deliver_host howner]
    exact ⟨rfl, id, rfl⟩
  | server =>
    rw [deliver_server howner]
    exact ⟨rfl, id, rfl⟩

/-- A scan counts mismatches only, each of which discards bytes (43_frame_sync R188). -/
theorem scan_counts (h : scan s = .next t) (hrx : s.rxState = .awaitFrame) :
    ∃ k ≤ s.rxBuf.length, CountStep s t (List.replicate k .checksumMismatch) := by
  obtain ⟨k, b, hk, -, -, hend⟩ := scan_cases hrx
  refine ⟨k, by omega, ?_⟩
  rcases hend with ⟨-, hwait⟩ | ⟨src, rr, dst, len, payload, crc, rest, -, -, hdeliver⟩
  · cases hwait.symm.trans h
    exact ⟨rfl, id, afterMismatches_eq_foldl s k⟩
  · rw [hdeliver] at h
    split at h
    · cases h
    · cases h
      have hscanned : CountStep s { s with rxBuf := b, stats := s.afterMismatches k } _ :=
        ⟨rfl, id, afterMismatches_eq_foldl s k⟩
      simpa using hscanned.trans (deliver_counts ..)

variable {u : State} {p : Port} {cs : List Counter}

/-- A scan after causes were counted. -/
theorem StepCounts.scanned (h : scan u = .next t) (hrx : u.rxState = .awaitFrame) (hcount : CountStep s u cs)
    (honce : EachOnce cs) (hbuf : u.rxBuf.length ≤ s.rxBuf.length + 1) :
    StepCounts s t := by
  obtain ⟨k, hk, hscan⟩ := scan_counts h hrx
  exact ⟨cs, k, honce, hk.trans hbuf, hcount.trans hscan⟩

/-- An armed read scans the buffer; a refused arm discards what was counted (43_frame_sync R190, R194). -/
theorem StepCounts.armed {cap : Nat} {owner : Owner} (h : arm (s.accept p) cap owner u = .next t)
    (hcount : CountStep s u cs) (honce : EachOnce cs) (hbuf : u.rxBuf = s.rxBuf) : StepCounts s t := by
  by_cases hrx : u.rxState = .idle
  · rw [arm, if_neg (not_not_intro hrx)] at h
    exact .scanned h rfl ⟨hcount.cfg, hcount.srvEn, hcount.stats⟩ honce (hbuf ▸ Nat.le_succ _)
  · cases (arm_pending hrx).symm.trans h
    exact .raised ..

/-- The end of a pending transmission; the dispatch unit counts a transport error (42_frame_codec R168). -/
theorem StepCounts.completed {owner : Owner} {st : Status} {sent : Nat}
    (h : completeTx (s.accept p) owner st sent u = .next t) (hcount : CountStep s u []) (hbuf : u.rxBuf = s.rxBuf) :
    StepCounts s t := by
  cases owner with
  | host =>
    cases h
    exact .of_nothing ⟨hcount.cfg, hcount.srvEn, hcount.stats⟩
  | server =>
    obtain ⟨v, rfl | rfl, harm⟩ := completeTx_server (s.accept p) st sent u
    · exact .armed (harm.symm.trans h) ⟨hcount.cfg, hcount.srvEn, hcount.stats⟩ eachOnce_nil hbuf
    · have hbump : CountStep u { u.bump .writeError with srvState := .idle } [.writeError] := ⟨rfl, id, rfl⟩
      exact .armed (harm.symm.trans h) (hcount.trans hbump) (by decide) hbuf

/-! ### The framer's commands and events -/

theorem execTxFrames_counts {frames : List Frame} (h : execTxFrames frames s = .next t) : StepCounts s t := by
  cases hen : s.srvEn with
  | true =>
    cases (execTxFrames_enabled frames hen).symm.trans h
    exact .raised ..
  | false =>
    cases htx : s.txState with
    | busy =>
      cases (execTxFrames_pending frames hen htx).symm.trans h
      exact .raised ..
    | idle =>
      rw [execTxFrames_start frames hen htx] at h
      cases hfits : txOversize (s.accept .host).cfg frames with
      | true =>
        cases (startTx_oversize_host _ hfits).symm.trans h
        exact .of_kept rfl rfl rfl
      | false =>
        by_cases hbytes : frames.flatMap (encodeFrame (s.accept .host).cfg) = []
        · exact .completed ((startTx_empty _ _ hfits hbytes).symm.trans h) ⟨rfl, id, rfl⟩ rfl
        · cases (startTx_busy _ _ hfits hbytes).symm.trans h
          exact .of_kept rfl rfl rfl

theorem execRxArm_counts {cap : Word} (h : execRxArm cap s = .next t) : StepCounts s t := by
  cases hen : s.srvEn with
  | true =>
    cases (execRxArm_enabled cap hen).symm.trans h
    exact .raised ..
  | false =>
    by_cases hcap : s.cfg.maxPayload < cap.toNat
    · cases (execRxArm_oversize hen hcap).symm.trans h
      exact .raised ..
    · exact .armed ((execRxArm_arm hen (not_lt.mp hcap)).symm.trans h) ⟨rfl, id, rfl⟩ eachOnce_nil rfl

theorem execRxCancel_counts (h : execRxCancel s = .next t) : StepCounts s t := by
  cases hen : s.srvEn with
  | true =>
    cases (execRxCancel_enabled hen).symm.trans h
    exact .raised ..
  | false =>
    by_cases hrx : s.rxState = .readingMore
    · cases howner : s.rxOwner with
      | host =>
        cases (execRxCancel_host hen hrx howner).symm.trans h
        exact .of_kept rfl rfl rfl
      | server => cases (execRxCancel_server hrx hen howner).symm.trans h
    · cases (execRxCancel_nothing hen hrx).symm.trans h
      exact .of_kept rfl rfl rfl

/-- `SRV_START` sets `SRV_EN` (45_dispatch R283). -/
theorem execSrvStart_counts (h : execSrvStart s = .next t) : StepCounts s t := by
  unfold execSrvStart at h
  dsimp only at h
  split at h
  · cases h
    exact .raised ..
  · split at h
    · cases h
      exact .raised ..
    · split at h
      · cases h
        exact .raised ..
      · exact .armed h ⟨rfl, fun _ => rfl, rfl⟩ eachOnce_nil rfl

theorem execRxByte_counts {d : Byte} (h : execRxByte d s = .next t) : StepCounts s t := by
  by_cases hrx : s.rxState = .readingMore
  · by_cases hroom : s.rxBuf.length < s.cfg.rxBufSize
    · have hlen : (s.rxBuf ++ [d]).length = s.rxBuf.length + 1 := List.length_append
      exact .scanned ((execRxByte_scan d hrx hroom).symm.trans h) rfl ⟨rfl, id, rfl⟩ eachOnce_nil hlen.le
    · cases (execRxByte_overflow d hrx (not_lt.mp hroom)).symm.trans h
  · cases (execRxByte_wait d hrx).symm.trans h
    exact .wait s

theorem execRxTerr_counts {e : Word} (h : execRxTerr e s = .next t) : StepCounts s t := by
  by_cases hrx : s.rxState = .readingMore
  · cases howner : s.rxOwner with
    | host =>
      cases (execRxTerr_host e hrx howner).symm.trans h
      exact .of_kept rfl rfl rfl
    | server =>
      exact .armed ((execRxTerr_server e hrx howner).symm.trans h) ⟨rfl, id, rfl⟩ eachOnce_nil rfl
  · cases (execRxTerr_wait e hrx).symm.trans h
    exact .wait s

theorem execRxTimeout_counts (h : execRxTimeout s = .next t) : StepCounts s t := by
  by_cases hwait : s.rxState ≠ .readingMore ∨ s.rxOwner ≠ .host
  · cases (execRxTimeout_wait hwait).symm.trans h
    exact .wait s
  · simp only [ne_eq, not_or, not_not] at hwait
    obtain ⟨hrx, howner⟩ := hwait
    cases (execRxTimeout_host hrx howner).symm.trans h
    exact .of_kept rfl rfl rfl

theorem execTxTake_counts (h : execTxTake s = .next t) : StepCounts s t := by
  by_cases hbusy : s.txState = .busy
  · cases hd : s.txBuf[s.txPos]? with
    | none => cases (execTxTake_beyond hbusy (List.getElem?_eq_none_iff.mp hd)).symm.trans h
    | some d =>
      obtain ⟨hpos, -⟩ := List.getElem?_eq_some_iff.mp hd
      by_cases hlast : s.txPos + 1 = s.txBuf.length
      · exact .completed ((exec_txTake_last hbusy hd hlast).symm.trans h) ⟨rfl, id, rfl⟩ rfl
      · cases (exec_txTake_more hbusy hd (by omega)).symm.trans h
        exact .of_kept rfl rfl rfl
  · cases (execTxTake_wait hbusy).symm.trans h
    exact .wait s

theorem execTxTerr_counts {e : Word} (h : execTxTerr e s = .next t) : StepCounts s t := by
  by_cases hbusy : s.txState = .busy
  · exact .completed ((exec_txTerr_busy e hbusy).symm.trans h) ⟨rfl, id, rfl⟩ rfl
  · cases (execTxTerr_wait e hbusy).symm.trans h
    exact .wait s

/-! ### The dispatch step (45_dispatch R286 to R294) -/

/-- What a parse counts, as a list of causes. -/
theorem CountedAs.causes {o e m : Option Counter} (h : CountedAs s t o e m) :
    ∃ cs, EachOnce cs ∧ t.stats = cs.foldl (Stats.bump s.cfg.statsWidth) s.stats := by
  have hfold : ∀ (st : Stats) (x : Option Counter),
      st.bumpOpt s.cfg.statsWidth x = x.toList.foldl (Stats.bump s.cfg.statsWidth) st := fun st x => by cases x <;> rfl
  obtain ⟨ho, he, -, hm, hstats⟩ := h
  have honce : EachOnce (o.toList ++ e.toList ++ m.toList) := by
    rcases hm with rfl | ⟨rfl, rfl, -⟩
    · rcases ho with rfl | ⟨rfl, -⟩ <;> rcases he with rfl | rfl | rfl | rfl <;> decide
    · rcases ho with rfl | ⟨rfl, -⟩ <;> decide
  exact ⟨_, honce, by rw [hstats, hfold, hfold, hfold, List.foldl_append, List.foldl_append]⟩

/-- After the parse the reply is on its way, or the read is armed (45_dispatch R287, R293). -/
theorem dispatchConclude_counts (h : dispatchConclude (s.accept p) u = .next t) (hcount : CountStep s u cs)
    (honce : EachOnce cs) (hbuf : u.rxBuf = s.rxBuf) : StepCounts s t := by
  cases hreply : u.need && u.sendOk with
  | false =>
    exact .armed ((dispatchConclude_finish hreply).symm.trans h) ⟨hcount.cfg, hcount.srvEn, hcount.stats⟩ honce hbuf
  | true =>
    obtain ⟨hneed, hsend⟩ := Bool.and_eq_true_iff.mp hreply
    by_cases htx : u.txState = .busy
    · cases (dispatchConclude_noReply hneed hsend (.inl htx)).symm.trans h
    have hsent := h.symm.trans ((dispatchConclude_reply hreply).trans (if_neg htx))
    cases hfits : txOversize u.cfg [u.replyFrame] with
    | true => cases hsent.trans (startTx_oversize_server _ hfits)
    | false =>
      cases hsent.trans (startTx_busy _ .server hfits (batch_ne_nil _ (List.cons_ne_nil _ _)))
      exact ⟨cs, 0, honce, Nat.zero_le _, hcount.cfg, hcount.srvEn, by simpa using hcount.stats⟩

theorem execSrvDispatch_counts (h : execSrvDispatch s = .next t) : StepCounts s t := by
  by_cases hsrv : s.srvState = .frameReceived
  · cases haddr : s.isAddressed with
    | false =>
      have hskip : CountStep s { ({ s.accept .dispatch with srvState := .dispatching } : State).bump .wrongId with
          srvState := .idle } [.wrongId] := ⟨rfl, id, rfl⟩
      exact .armed ((execSrvDispatch_skip hsrv haddr).symm.trans h) hskip (by decide) rfl
    | true =>
      by_cases hlen : s.rxfPayload.length < s.rxfLen.toNat
      · cases (execSrvDispatch_missing hsrv haddr hlen).symm.trans h
      · obtain ⟨u, hloop, hstep, -⟩ := parsing_ends s
        obtain ⟨-, -, -, -, hbuf⟩ := hstep.framer
        obtain ⟨-, o, e, m, hcounted⟩ := dispatchLoop_tally _ rfl rfl hloop
        obtain ⟨cs, honce, hstats⟩ := hcounted.causes
        have hsrvEn : u.srvEn = s.srvEn := (congrArg State.srvEn hstep.frame :)
        rw [execSrvDispatch_parse hsrv haddr (not_lt.mp hlen), hloop] at h
        exact dispatchConclude_counts h ⟨hstep.cfg, hsrvEn.trans, hstats⟩ honce hbuf
  · cases (execSrvDispatch_wait hsrv).symm.trans h
    exact .wait s

/-! ### Steps -/

/-- Every host command (30_encoding R85). -/
theorem command_counts {i : Instr} (hi : i.language = .command) (h : exec i s = .next t) : StepCounts s t := by
  cases i with
  | txFrames frames => exact execTxFrames_counts h
  | rxArm cap => exact execRxArm_counts h
  | rxCancel => exact execRxCancel_counts h
  | srvStart => exact execSrvStart_counts h
  | csrRead i => exact (execCsrRead_hostUnit h).counts
  | csrWrite i v => exact (execCsrWrite_hostUnit h).counts
  | rqWrite reg ty values => exact (execRqWrite_hostUnit h).counts
  | rqRead reg ty n => exact (execRqRead_hostUnit h).counts
  | rpParse payload => exact (execRpParse_hostUnit h).counts
  | crcInit | crcByte | crcRead | crcCheck | venc | vdecClr | vdecByte | rqClear | rqSetRr | rqGet =>
    cases h
    exact .of_kept rfl rfl rfl
  | _ => cases hi

/-- Every event (30_encoding R86). -/
theorem event_counts {i : Instr} (hi : i.language = .event) (h : exec i s = .next t) : StepCounts s t := by
  cases i with
  | rxByte d => exact execRxByte_counts h
  | rxTerr e => exact execRxTerr_counts h
  | txTake => exact execTxTake_counts h
  | txTerr e => exact execTxTerr_counts h
  | rxTimeout => exact execRxTimeout_counts h
  | tRead ch n => exact (execTRead_tunnel h).counts
  | tWrite ch d => exact (execTWrite_tunnel h).counts
  | srvDispatch => exact execSrvDispatch_counts h
  | _ => cases hi

/-- A step that is no RESET counts what `StepCounts` says and clears nothing of `SRV_EN`. -/
theorem step_counts (hs : s.settled) (h : step s = .next t) (hreset : s.sched.head? ≠ some .reset) :
    StepCounts s t := by
  cases step_cases hs h with
  | wait next => exact next ▸ .wait s
  | reset turn next => exact absurd turn hreset
  | badCommand turn next => exact next ▸ .raised ..
  | command i turn lang next => exact command_counts lang next
  | event p i turn notHost port next => exact event_counts (event_of_portOf notHost port) next

theorem StepCounts.srvEn (h : StepCounts s t) (hen : s.srvEn = true) : t.srvEn = true := by
  obtain ⟨_, _, -, -, hcount⟩ := h
  exact hcount.srvEn hen

/-! ### `FAULT` (60_exceptions R365) -/

/-- A raised fault sets a bit and clears none. -/
theorem raise_keeps_fault (s : State) (p : Port) (f : FaultBit) :
    ((s.accept p).raise f).fault &&& s.fault = s.fault := by
  rw [State.raise_fault, State.accept_fault]
  ext k
  simp only [BitVec.getElem_and, BitVec.getElem_or]
  cases s.fault[k] <;> simp

/-- No instruction clears a bit of `FAULT`, in any state. -/
theorem exec_keeps_fault {i : Instr} (h : exec i s = .next t) : t.fault &&& s.fault = s.fault := by
  by_cases hsame : t.fault = s.fault
  · rw [hsame, BitVec.and_self]
  · obtain ⟨p, b, -, rfl⟩ := faulted_of_fault_ne h hsame
    have hraised : (s.faulted p b).fault = ((s.accept p).raise b).fault := by
      unfold State.faulted
      split <;> rfl
    rw [hraised]
    exact raise_keeps_fault s p b

theorem step_keeps_fault (hs : s.settled) (h : step s = .next t) (hreset : s.sched.head? ≠ some .reset) :
    t.fault &&& s.fault = s.fault := by
  cases step_cases hs h with
  | wait next => rw [next, State.wait_fault, BitVec.and_self]
  | reset turn next => exact absurd turn hreset
  | badCommand turn next => exact next ▸ raise_keeps_fault s .host .badCmd
  | command i turn lang next => exact exec_keeps_fault next
  | event p i turn notHost port next => exact exec_keeps_fault next

end

/-! ### The obligation -/

/-- Settles O20: no step but RESET clears a bit of `FAULT`, or `SRV_EN`, and `StepCounts.moves` bounds each counter;
RESET leads to the table's values. -/
theorem stickyState : Obligations.StickyState := by
  refine ⟨fun s t hinv hstep hreset => ?_, fun s t hinv hstep hreset => ?_⟩
  · have hcounts := step_counts hinv.settled hstep hreset
    exact ⟨step_keeps_fault hinv.settled hstep hreset, hcounts.srvEn, fun c => hcounts.moves (hinv.counter_lt c)⟩
  · obtain ⟨r, hsched⟩ := List.head?_eq_some_iff.mp hreset
    obtain ⟨-, ⟨-, hcounters, -⟩, -, hreset'⟩ := resetValues s.cfg
    cases (hreset' s r hinv.settled hsched).symm.trans hstep
    exact ⟨rfl, rfl, hcounters⟩

end Sys2Proof.Machine
end
